-- ==== Sys2Proof/Word.lean ====
section
/-! DEFINITION. The two kinds of number the block handles: the byte (spec 20_memory R51) and the 16-bit
slot or field (spec 00_scope R8). Both are unsigned (R10). -/

namespace Sys2Proof

/-- A byte of a frame, or an 8-bit register (R10, R51). -/
abbrev Byte := BitVec 8

/-- A 16-bit field or one slot of VAL (R8: SLOTW, ADDRW, QTYW are 16). -/
abbrev Word := BitVec 16

end Sys2Proof
end

