-- ==== Sys2Proof/Config.lean ====
section
/-! DEFINITION. The block's parameters (spec 00_scope R8). None is configurable. MAXLEN, the one open parameter (R9),
is read by no rule and appears nowhere: the model takes frames of every length (notes/assumptions/5.md). The spec leaves
no value undefined (R19), so there is no free value here. -/

namespace Sys2Proof

/-- MINLEN of R8: a shorter frame fails with TooShort. -/
abbrev Config.minLen : Nat := 3

/-- REQLEN of R8: the length that selects the request shape for function codes 0x01 to 0x04. -/
abbrev Config.reqLen : Nat := 6

/-- NVALMAX of R8, the number of slots of VAL (10_state R33). -/
abbrev Config.valSlots : Nat := 255

end Sys2Proof
end

