-- ==== Sys2Proof/Syntax.lean ====
section
/-! DEFINITION. The instructions: one constructor per row of spec/opcode_table.json (spec 30_encoding R80, R93), and the
enumerations the rules name. One frame is one instruction (INDEX.md, R80), so an instruction carries every byte of its
frame (notes/assumptions/7.md):

* fields that lie inside every frame the row matches are pulled out by the decoder under the rule's own operand names;
* bytes that the row's rule reads through MemRead because they may be missing (20_memory R59), and bytes the rule
  ignores (30_encoding R89), stay a list of bytes in frame order. `body` starts at frame offset 2, `payload` and `tail`
  at offset 3. -/

namespace Sys2Proof

/-- The function-code enumeration, all eleven variants (30_encoding R75). `undefined` is the sentinel. -/
inductive FunctionCode where
  | undefined
  | readCoils
  | readDiscreteInputs
  | readHoldingRegisters
  | readInputRegister
  | writeSingleCoil
  | writeSingleRegister
  | slReadExceptionStatus
  | slDiagnostics
  | writeMultipleCoils
  | writeMultipleRegisters
deriving DecidableEq, Repr

/-- The ten known exception codes (41_exception_decode R121). -/
inductive KnownError where
  | noError
  | illegalFunction
  | illegalDataAddress
  | illegalDataValue
  | slaveDeviceFailure
  | acknowledge
  | slaveDeviceBusy
  | memoryPartitionError
  | gatewayPathUnavailable
  | gatewayTargetDeviceFailedToRespond
deriving DecidableEq, Repr

/-- The source's error-code value: a known variant, or the opaque unknown variant with its raw byte
(R121, R122; 10_state R27). -/
inductive ErrorCode where
  | known (e : KnownError)
  | unknown (raw : Byte)
deriving DecidableEq, Repr

/-- The three decode failures and no others (60_exceptions R210). -/
inductive DecodeError where
  | tooShort
  | undefinedFunctionCode
  | truncatedPayload
deriving DecidableEq, Repr

/-- The frame kinds, in the order of opcode_table.json. -/
inductive Instr where
  /-- SHORT: a frame of 0, 1 or 2 bytes (R102). -/
  | short (bytes : List Byte)
  /-- RC.REQ: byte 1 = 0x01, len = 6 (R140). -/
  | rcReq (slave : Byte) (addr qty : Word)
  /-- RC.RSP: byte 1 = 0x01, len other than 6; `q` is byte 2, a count of bits (R141). -/
  | rcRsp (slave q : Byte) (payload : List Byte)
  /-- RDI.REQ: byte 1 = 0x02, len = 6 (R142). -/
  | rdiReq (slave : Byte) (addr qty : Word)
  /-- RDI.RSP: byte 1 = 0x02, len other than 6 (R143). -/
  | rdiRsp (slave q : Byte) (payload : List Byte)
  /-- RHR.REQ: byte 1 = 0x03, len = 6 (R160). -/
  | rhrReq (slave : Byte) (addr qty : Word)
  /-- RHR.RSP: byte 1 = 0x03, len other than 6; `bc` is byte 2, a count of bytes (R161). -/
  | rhrRsp (slave bc : Byte) (payload : List Byte)
  /-- RIR.REQ: byte 1 = 0x04, len = 6 (R162). -/
  | rirReq (slave : Byte) (addr qty : Word)
  /-- RIR.RSP: byte 1 = 0x04, len other than 6 (R163). -/
  | rirRsp (slave bc : Byte) (payload : List Byte)
  /-- WSC: byte 1 = 0x05 (R180). -/
  | wsc (slave : Byte) (body : List Byte)
  /-- WSR: byte 1 = 0x06 (R181). -/
  | wsr (slave : Byte) (body : List Byte)
  /-- RES: byte 1 = 0x07; `status` is byte 2 (R200). -/
  | res (slave status : Byte) (tail : List Byte)
  /-- DIAG: byte 1 = 0x08 (R201). -/
  | diag (slave : Byte) (body : List Byte)
  /-- WMC: byte 1 = 0x0F (R182). -/
  | wmc (slave : Byte) (body : List Byte)
  /-- WMR: byte 1 = 0x10 (R183). -/
  | wmr (slave : Byte) (body : List Byte)
  /-- EXC.RC: byte 1 = 0x81; `code` is byte 2 (R123). -/
  | excRc (slave code : Byte) (tail : List Byte)
  /-- EXC.RDI: byte 1 = 0x82 (R124). -/
  | excRdi (slave code : Byte) (tail : List Byte)
  /-- EXC.RHR: byte 1 = 0x83 (R125). -/
  | excRhr (slave code : Byte) (tail : List Byte)
  /-- EXC.RIR: byte 1 = 0x84 (R126). -/
  | excRir (slave code : Byte) (tail : List Byte)
  /-- EXC.WSC: byte 1 = 0x85 (R127). -/
  | excWsc (slave code : Byte) (tail : List Byte)
  /-- EXC.WSR: byte 1 = 0x86 (R128). -/
  | excWsr (slave code : Byte) (tail : List Byte)
  /-- EXC.RES: byte 1 = 0x87 (R129). -/
  | excRes (slave code : Byte) (tail : List Byte)
  /-- EXC.DIAG: byte 1 = 0x88 (R130). -/
  | excDiag (slave code : Byte) (tail : List Byte)
  /-- EXC.WMC: byte 1 = 0x8F (R131). -/
  | excWmc (slave code : Byte) (tail : List Byte)
  /-- EXC.WMR: byte 1 = 0x90 (R132). -/
  | excWmr (slave code : Byte) (tail : List Byte)
  /-- ILLEGAL: any other byte 1, at any len of 3 or more (R103). -/
  | illegal (slave rawFn : Byte) (body : List Byte)
deriving DecidableEq, Repr

end Sys2Proof
end

