-- ==== Sys2Proof/WellFormed.lean ====
section
/-! DEFINITION. Which instructions a frame can be: the length condition of the row (spec 30_encoding Table R80) and, for
ILLEGAL, that byte 1 is none of the 20 legal values (R81). -/

namespace Sys2Proof

/-- The 20 legal values of byte 1 (30_encoding R81). -/
def legalCodes : List Byte :=
  [0x01#8, 0x02#8, 0x03#8, 0x04#8, 0x05#8, 0x06#8, 0x07#8, 0x08#8, 0x0F#8, 0x10#8] ++
  [0x81#8, 0x82#8, 0x83#8, 0x84#8, 0x85#8, 0x86#8, 0x87#8, 0x88#8, 0x8F#8, 0x90#8]

/-- The checks on an instruction's own fields. -/
def wellFormed : Instr → Bool
  -- Three header bytes and a payload that is not three bytes long: len other than 6.
  | .rcRsp _ _ payload | .rdiRsp _ _ payload | .rhrRsp _ _ payload | .rirRsp _ _ payload =>
    payload.length + 3 != Config.reqLen
  -- Two header bytes and at least one more: len at least 3.
  | .wsc _ body | .wsr _ body | .diag _ body | .wmc _ body | .wmr _ body =>
    Config.minLen ≤ body.length + 2
  | .illegal _ rawFn body => !legalCodes.contains rawFn && Config.minLen ≤ body.length + 2
  | .short bytes => bytes.length < Config.minLen
  -- The typed operands of the other rows fix the length the row asks for.
  | .rcReq _ _ _ | .rdiReq _ _ _ | .rhrReq _ _ _ | .rirReq _ _ _ => true
  | .res _ _ _ | .excRc _ _ _ | .excRdi _ _ _ | .excRhr _ _ _ | .excRir _ _ _ | .excWsc _ _ _ | .excWsr _ _ _
  | .excRes _ _ _ | .excDiag _ _ _ | .excWmc _ _ _ | .excWmr _ _ _ => true

/-- An instruction some frame decodes to. -/
abbrev WellFormed (i : Instr) : Prop := wellFormed i = true

end Sys2Proof
end

