-- ==== Sys2Proof/Decode.lean ====
section
/-! DEFINITION. From the bytes of a frame to its instruction and back, by the opcode map (spec 30_encoding R80, R81, R93):
SHORT first, then the 24 rows on byte 1 whole, then ILLEGAL. The decoder is total: every list of bytes is one
instruction, and what the spec rejects it rejects as the row SHORT or ILLEGAL. The byte-order and enumeration helpers of
the rules stand here too. -/

namespace Sys2Proof

/-! ### 16-bit fields (20_memory R53, R54; 30_encoding R83) -/

/-- The big-endian pair: the byte at the lower offset is the more significant. -/
def be16 (hi lo : Byte) : Word := BitVec.ofNat 16 (hi.toNat * 256 + lo.toNat)

/-- The byte of a 16-bit field that stands at the lower offset. -/
def hiByte (w : Word) : Byte := BitVec.ofNat 8 (w.toNat / 256)

/-- The byte of a 16-bit field that stands at the higher offset. -/
def loByte (w : Word) : Byte := BitVec.ofNat 8 (w.toNat % 256)

/-! ### The enumerations as numbers -/

/-- The value of a function-code variant (30_encoding R75). -/
def FunctionCode.value : FunctionCode → Byte
  | .undefined => 0x00#8
  | .readCoils => 0x01#8
  | .readDiscreteInputs => 0x02#8
  | .readHoldingRegisters => 0x03#8
  | .readInputRegister => 0x04#8
  | .writeSingleCoil => 0x05#8
  | .writeSingleRegister => 0x06#8
  | .slReadExceptionStatus => 0x07#8
  | .slDiagnostics => 0x08#8
  | .writeMultipleCoils => 0x0F#8
  | .writeMultipleRegisters => 0x10#8

/-- The ten recognised function codes: the enumeration without its sentinel (30_encoding R75, R87). -/
def FunctionCode.recognised : List FunctionCode :=
  [.readCoils, .readDiscreteInputs, .readHoldingRegisters, .readInputRegister, .writeSingleCoil,
   .writeSingleRegister, .slReadExceptionStatus, .slDiagnostics, .writeMultipleCoils, .writeMultipleRegisters]

/-- The value of a known exception code (41_exception_decode R121). -/
def KnownError.value : KnownError → Byte
  | .noError => 0x00#8
  | .illegalFunction => 0x01#8
  | .illegalDataAddress => 0x02#8
  | .illegalDataValue => 0x03#8
  | .slaveDeviceFailure => 0x04#8
  | .acknowledge => 0x05#8
  | .slaveDeviceBusy => 0x06#8
  | .memoryPartitionError => 0x08#8
  | .gatewayPathUnavailable => 0x0A#8
  | .gatewayTargetDeviceFailedToRespond => 0x0B#8

/-- The whole set of known exception codes (R121). -/
def KnownError.all : List KnownError :=
  [.noError, .illegalFunction, .illegalDataAddress, .illegalDataValue, .slaveDeviceFailure, .acknowledge,
   .slaveDeviceBusy, .memoryPartitionError, .gatewayPathUnavailable, .gatewayTargetDeviceFailedToRespond]

/-! ### The decoder -/

/-- A frame of code 0x01 to 0x04 from offset 2 on: six bytes in all are the request shape, any other length is the
response shape (40_envelope_dispatch R104). `b2` is byte 2, `rest` the bytes from offset 3. -/
def decodeRead (req : Word → Word → Instr) (rsp : Byte → List Byte → Instr) (b2 : Byte) : List Byte → Instr
  | [b3, b4, b5] => req (be16 b2 b3) (be16 b4 b5)
  | rest => rsp b2 rest

/-- A frame of at least three bytes, by its byte 1 (Table R80; R81 for the last arm). -/
def decodeLong (slave rawFn b2 : Byte) (rest : List Byte) : Instr :=
  match rawFn with
  | 0x01#8 => decodeRead (.rcReq slave) (.rcRsp slave) b2 rest
  | 0x02#8 => decodeRead (.rdiReq slave) (.rdiRsp slave) b2 rest
  | 0x03#8 => decodeRead (.rhrReq slave) (.rhrRsp slave) b2 rest
  | 0x04#8 => decodeRead (.rirReq slave) (.rirRsp slave) b2 rest
  | 0x05#8 => .wsc slave (b2 :: rest)
  | 0x06#8 => .wsr slave (b2 :: rest)
  | 0x07#8 => .res slave b2 rest
  | 0x08#8 => .diag slave (b2 :: rest)
  | 0x0F#8 => .wmc slave (b2 :: rest)
  | 0x10#8 => .wmr slave (b2 :: rest)
  | 0x81#8 => .excRc slave b2 rest
  | 0x82#8 => .excRdi slave b2 rest
  | 0x83#8 => .excRhr slave b2 rest
  | 0x84#8 => .excRir slave b2 rest
  | 0x85#8 => .excWsc slave b2 rest
  | 0x86#8 => .excWsr slave b2 rest
  | 0x87#8 => .excRes slave b2 rest
  | 0x88#8 => .excDiag slave b2 rest
  | 0x8F#8 => .excWmc slave b2 rest
  | 0x90#8 => .excWmr slave b2 rest
  | _ => .illegal slave rawFn (b2 :: rest)

/-- The instruction a frame is (30_encoding R93: SHORT is tried before byte 1 is looked at). -/
def decode : List Byte → Instr
  | slave :: rawFn :: b2 :: rest => decodeLong slave rawFn b2 rest
  | bytes => .short bytes

/-! ### The encoder, from the formats of 30_encoding section 2 -/

/-- Format ADDR_QTY at its six bytes (R73): address and quantity, both big-endian. -/
def encodeRequest (slave rawFn : Byte) (addr qty : Word) : List Byte :=
  [slave, rawFn, hiByte addr, loByte addr, hiByte qty, loByte qty]

/-- The bytes of an instruction's frame, slave address first (R70 to R79). -/
def encode : Instr → List Byte
  | .short bytes => bytes
  | .rcReq slave addr qty => encodeRequest slave 0x01#8 addr qty
  | .rcRsp slave q payload => slave :: 0x01#8 :: q :: payload
  | .rdiReq slave addr qty => encodeRequest slave 0x02#8 addr qty
  | .rdiRsp slave q payload => slave :: 0x02#8 :: q :: payload
  | .rhrReq slave addr qty => encodeRequest slave 0x03#8 addr qty
  | .rhrRsp slave bc payload => slave :: 0x03#8 :: bc :: payload
  | .rirReq slave addr qty => encodeRequest slave 0x04#8 addr qty
  | .rirRsp slave bc payload => slave :: 0x04#8 :: bc :: payload
  | .wsc slave body => slave :: 0x05#8 :: body
  | .wsr slave body => slave :: 0x06#8 :: body
  | .res slave status tail => slave :: 0x07#8 :: status :: tail
  | .diag slave body => slave :: 0x08#8 :: body
  | .wmc slave body => slave :: 0x0F#8 :: body
  | .wmr slave body => slave :: 0x10#8 :: body
  | .excRc slave code tail => slave :: 0x81#8 :: code :: tail
  | .excRdi slave code tail => slave :: 0x82#8 :: code :: tail
  | .excRhr slave code tail => slave :: 0x83#8 :: code :: tail
  | .excRir slave code tail => slave :: 0x84#8 :: code :: tail
  | .excWsc slave code tail => slave :: 0x85#8 :: code :: tail
  | .excWsr slave code tail => slave :: 0x86#8 :: code :: tail
  | .excRes slave code tail => slave :: 0x87#8 :: code :: tail
  | .excDiag slave code tail => slave :: 0x88#8 :: code :: tail
  | .excWmc slave code tail => slave :: 0x8F#8 :: code :: tail
  | .excWmr slave code tail => slave :: 0x90#8 :: code :: tail
  | .illegal slave rawFn body => slave :: rawFn :: body

/-! ### The opcode table's own bit numbering (notes/assumptions/8.md) -/

/-- The `n` low bytes of `w`, the least significant first. -/
def lowBytes : Nat → Nat → List Byte
  | 0, _ => []
  | n + 1, w => BitVec.ofNat 8 w :: lowBytes n (w / 256)

/-- The frame meant by a word of the opcode table. The table's match and mask, and so its bits 7 to 0, are byte 1 of the
frame (R93); further bytes of the word follow it. The slave address, which the table gives no bits, is 0, and so is
every byte up to the six that the fixed-offset formats have. A word of no bits is the empty frame. -/
def tableFrame (nbits w : Nat) : List Byte :=
  if nbits = 0 then []
  else 0x00#8 :: (lowBytes ((nbits + 7) / 8) (w % 2 ^ nbits) ++
    List.replicate (5 - (nbits + 7) / 8) 0x00#8)

/-- The instruction the decoder reads from a word of the opcode table. -/
def decodeTableWord (nbits w : Nat) : Option Instr := some (decode (tableFrame nbits w))

end Sys2Proof
end

