-- ==== Sys2Proof/Machine/State.lean ====
section
/-! DEFINITION. The machine's state: the result registers of spec 10_state, all of them (R20), and the frame the host
presents, which the step reads (R39; notes/assumptions/1.md). -/

namespace Sys2Proof.Machine

/-- STATUS, 2 bits (10_state R22). `Status.code` gives the numbers. -/
inductive Status where
  /-- A Decoded Message is in the other registers. -/
  | ok
  | tooShort
  | undefinedFc
  | truncated
deriving DecidableEq, Repr

/-- SHAPE, 3 bits (10_state R30): which message registers a DECODE populated. `Shape.code` gives the numbers. -/
inductive Shape where
  | none
  | exc
  | addrQty
  | addrVal
  | bits
  | regs
  | status8
  | diag
deriving DecidableEq, Repr

/-- The value array VAL[0..254] (10_state R33). -/
abbrev Values := Vector Word Config.valSlots

/-- Every slot at its default (R33, R34). -/
def Values.zero : Values := Vector.replicate Config.valSlots 0x0000#16

/-- The frame buffer BUF as cells (offset, byte): offsets strictly rising, no cell holding what an unlisted offset
reads as (`Memory.unlisted` in Ops; notes/assumptions/2.md). -/
abbrev Memory := List Host.Cell

/-- A Decoded Message as the message registers hold it (10_state R23 to R33): what an arm hands to the success
outcome (40_envelope_dispatch R108). -/
structure Message where
  slave : Byte
  fc : Byte
  hasErr : Bool
  errCode : Byte
  errUnk : Bool
  addr : Word
  qty : Word
  shape : Shape
  bcnt : Byte
  nval : Byte
  val : Values
deriving DecidableEq, Repr

/-- Every message register at its default (Table R34). -/
def Message.unset : Message where
  slave := 0x00#8
  fc := 0x00#8
  hasErr := false
  errCode := 0x00#8
  errUnk := false
  addr := 0x0000#16
  qty := 0x0000#16
  shape := .none
  bcnt := 0x00#8
  nval := 0x00#8
  val := Values.zero

/-- The state. `mem` and `len` are the input of the next DECODE; all other fields are the block's registers. -/
structure State where
  /-- VALID (R21): some DECODE has happened since reset. -/
  valid : Bool
  /-- STATUS (R22). -/
  status : Status
  /-- SLAVE (R23). -/
  slave : Byte
  /-- FC (R24). -/
  fc : Byte
  /-- HASERR (R25). -/
  hasErr : Bool
  /-- ERRCODE (R26). -/
  errCode : Byte
  /-- ERRUNK (R27). -/
  errUnk : Bool
  /-- ADDR (R28). -/
  addr : Word
  /-- QTY (R29). -/
  qty : Word
  /-- SHAPE (R30). -/
  shape : Shape
  /-- BCNT (R31). -/
  bcnt : Byte
  /-- NVAL (R32). -/
  nval : Byte
  /-- VAL[0..254] (R33). -/
  val : Values
  /-- BUF (R39, R50), the host's. -/
  mem : Memory
  /-- len (R39), the host's: the number of bytes of the frame. -/
  len : Nat
deriving DecidableEq, Repr

/-- The machine right after reset: every register as 10_state R40 and 70_reset_and_hazards R240 say. Reset does not
concern the frame buffer (R240); no frame is presented yet, which is the empty frame (notes/assumptions/3.md). -/
def State.reset : State where
  valid := false
  status := .ok
  slave := 0x00#8
  fc := 0x00#8
  hasErr := false
  errCode := 0x00#8
  errUnk := false
  addr := 0x0000#16
  qty := 0x0000#16
  shape := .none
  bcnt := 0x00#8
  nval := 0x00#8
  val := Values.zero
  mem := []
  len := 0

/-- Why a step could stop with a fault. There is no reason, so no constructor: a decode failure is a typed result that
the registers report (60_exceptions R210, R212, R218), and nothing traps or hangs (00_scope R19;
notes/assumptions/6.md). Safe: nothing the hardware does is left out. -/
inductive Fault where
deriving DecidableEq, Repr

/-- Why a step could be refused. -/
inductive Refusal where
  /-- Raised by exec's arm of an instruction that has no meaning yet; no arm is left that raises it. Safe: the model
  would say nothing of such an instruction. -/
  | notModelled (mnemonic : String)
deriving DecidableEq, Repr

end Sys2Proof.Machine
end

