-- ==== Sys2Proof/Machine/Flags.lean ====
section
/-! DEFINITION. The one-bit results and the coded ones: the exception flag and the masked code (spec 30_encoding R71,
R84), the function-code map (40_envelope_dispatch R110), the exception-code map (41_exception_decode R122), and the
numbers of STATUS and SHAPE (10_state R22, R30). -/

namespace Sys2Proof.Machine

/-- E, bit 7 of byte 1 (30_encoding R84): an exception response (40_envelope_dispatch R107). -/
def exceptionFlag (rawFn : Byte) : Bool := (rawFn &&& 0x80#8) != 0x00#8

/-- The code, bits 6 to 0 of byte 1 (30_encoding R71). -/
def maskedCode (rawFn : Byte) : Byte := rawFn &&& 0x7F#8

/-- FcMap (40_envelope_dispatch R110): the recognised function code of that value, or UndefinedFunctionCode. -/
def fcMap (c : Byte) : Except DecodeError FunctionCode :=
  match FunctionCode.recognised.find? (fun f => f.value == c) with
  | some f => .ok f
  | none => .error .undefinedFunctionCode

/-- ErrMap as a sum (41_exception_decode R122): the known variant of that value, or the unknown variant with the byte. -/
def errorCodeOf (e : Byte) : ErrorCode :=
  match KnownError.all.find? (fun k => k.value == e) with
  | some k => .known k
  | none => .unknown e

/-- The number ERRCODE holds for an error code (10_state R26, R27). -/
def errorNumber : ErrorCode → Byte
  | .known k => k.value
  | .unknown raw => raw

/-- What ERRUNK holds for an error code (10_state R27). -/
def errorUnknown : ErrorCode → Bool
  | .known _ => false
  | .unknown _ => true

/-- ErrMap as the pair of registers (ERRCODE, ERRUNK) (41_exception_decode R122). Total: no exception code fails. -/
def errMap (e : Byte) : Byte × Bool := (errorNumber (errorCodeOf e), errorUnknown (errorCodeOf e))

/-- The number of a STATUS value (10_state R22, 60_exceptions R211). -/
def Status.code : Status → BitVec 2
  | .ok => 0#2
  | .tooShort => 1#2
  | .undefinedFc => 2#2
  | .truncated => 3#2

/-- The number of a SHAPE value (10_state R30). -/
def Shape.code : Shape → BitVec 3
  | .none => 0#3
  | .exc => 1#3
  | .addrQty => 2#3
  | .addrVal => 3#3
  | .bits => 4#3
  | .regs => 5#3
  | .status8 => 6#3
  | .diag => 7#3

/-- The STATUS value that reports a failure (60_exceptions R211). -/
def failureStatus : DecodeError → Status
  | .tooShort => .tooShort
  | .undefinedFunctionCode => .undefinedFc
  | .truncatedPayload => .truncated

end Sys2Proof.Machine
end

