-- ==== Sys2Proof/Machine/Ops.lean ====
section
/-! DEFINITION. The shared operations: the frame buffer and the two checked reads (spec 20_memory), the two outcomes of a
DECODE (40_envelope_dispatch R108, 60_exceptions R212), what the host does between DECODE operations
(70_reset_and_hazards R240, R245; 10_state R43), and the views of the result registers. -/

namespace Sys2Proof.Machine

/-! ### The frame buffer as cells -/

/-- What an offset that no cell lists reads as (notes/assumptions/2.md). -/
def Memory.unlisted : Byte := 0x00#8

/-- The byte at an offset. -/
def Memory.read : Memory → Nat → Byte
  | [], _ => Memory.unlisted
  | (a, b) :: m, off => if a = off then b else Memory.read m off

/-- Store a byte at an offset, keeping the canonical form. Only the host stores (20_memory R55). -/
def Memory.write : Memory → Nat → Byte → Memory
  | [], off, v => if v = Memory.unlisted then [] else [(off, v)]
  | (a, b) :: m, off, v =>
    if a < off then (a, b) :: Memory.write m off v
    else if a = off then (if v = Memory.unlisted then m else (off, v) :: m)
    else if v = Memory.unlisted then (a, b) :: m
    else (off, v) :: (a, b) :: m

/-- Store bytes at rising offsets from `off` on. -/
def Memory.writeBytes (m : Memory) (off : Nat) : List Byte → Memory
  | [] => m
  | b :: bs => Memory.writeBytes (Memory.write m off b) (off + 1) bs

/-- The canonical form: offsets strictly rising, no cell that says what an unlisted offset says. -/
abbrev Memory.wf (m : Memory) : Prop :=
  List.Pairwise (fun c d => c.1 < d.1) m ∧ ∀ c ∈ m, c.2 ≠ Memory.unlisted

/-- The frame presented: BUF[0], ..., BUF[len - 1] (00_scope R12, 10_state R39). -/
def State.frame (s : State) : List Byte := (List.range s.len).map (Memory.read s.mem)

/-! ### The checked reads of a frame -/

/-- MemRead(off, 1) (20_memory R52): the byte, or TruncatedPayload at an offset outside the frame. -/
def memRead8 (frame : List Byte) (off : Nat) : Except DecodeError Byte :=
  match frame[off]? with
  | some b => .ok b
  | none => .error .truncatedPayload

/-- MemRead(off, 2) (20_memory R53): the big-endian pair, or TruncatedPayload if either byte is outside. -/
def memRead16 (frame : List Byte) (off : Nat) : Except DecodeError Word := do
  let hi ← memRead8 frame off
  let lo ← memRead8 frame (off + 1)
  return be16 hi lo

/-! ### The two outcomes of a DECODE -/

/-- The success outcome (40_envelope_dispatch R108): every result register is written, all together. -/
def State.succeed (s : State) (m : Message) : State :=
  { s with
    valid := true, status := .ok,
    slave := m.slave, fc := m.fc, hasErr := m.hasErr, errCode := m.errCode, errUnk := m.errUnk,
    addr := m.addr, qty := m.qty, shape := m.shape, bcnt := m.bcnt, nval := m.nval, val := m.val }

/-- The failure outcome, what `raise` does (60_exceptions R212): the code in STATUS and nothing else kept. -/
def State.raise (s : State) (e : DecodeError) : State :=
  { s.succeed Message.unset with status := failureStatus e }

/-- The end of a DECODE: the image of the Failure or Message (00_scope R18, 40_envelope_dispatch R100). -/
def State.finish (s : State) : Except DecodeError Message → Host.Outcome State Fault Refusal
  | .ok m => .next (s.succeed m)
  | .error e => .next (s.raise e)

/-! ### The host between DECODE operations (notes/assumptions/4.md) -/

/-- The host presents a whole frame with its length (70_reset_and_hazards R245). -/
def State.present (s : State) (bytes : List Byte) : State :=
  { s with mem := Memory.writeBytes [] 0 bytes, len := bytes.length }

/-- The host overwrites one byte of the frame it has presented (10_state R43, 20_memory R64). An offset outside the frame
does not exist and nothing is stored (notes/assumptions/12.md). -/
def State.overwrite (s : State) (off : Nat) (b : Byte) : State :=
  if off < s.len then { s with mem := Memory.write s.mem off b } else s

/-- The host resets the block (70_reset_and_hazards R240): every result register, and not the frame. -/
def State.resetRegisters (s : State) : State := { State.reset with mem := s.mem, len := s.len }

/-! ### What the host reads -/

/-- The source's `values`: the first NVAL slots (10_state R32, R33). -/
def State.values (s : State) : List Word := s.val.toList.take s.nval.toNat

/-- FC as a variant of the enumeration (10_state R24, 30_encoding R75). -/
def State.functionCode (s : State) : Option FunctionCode :=
  (FunctionCode.undefined :: FunctionCode.recognised).find? (fun f => f.value == s.fc)

/-- The pair (ERRUNK, ERRCODE) as the source's error code (10_state R27). -/
def State.errorCode (s : State) : ErrorCode :=
  if s.errUnk then .unknown s.errCode else errorCodeOf s.errCode

end Sys2Proof.Machine
end

