-- ==== Sys2Proof/Machine/Operands.lean ====
section
/-! DEFINITION. The seven frame formats (spec 30_encoding R72 to R79): what each puts in the message registers, the two
unpackers, and the shared procedures of files 41 to 45 that read a frame through MemRead. -/

namespace Sys2Proof.Machine

/-! ### Arithmetic of the unpackers (00_scope R11, 30_encoding R90) -/

/-- The number of bytes that hold `q` packed bits (00_scope R11). -/
def ceil8 (q : Nat) : Nat := (q + 7) / 8

/-- A value of at most 16 bits in a 16-bit slot (00_scope R11, 30_encoding R85). -/
def zext16 {w : Nat} (v : BitVec w) : Word := v.setWidth 16

/-- `(b >> k) & 1` (00_scope R10, 20_memory R56). -/
def bitOf (b : Byte) (k : Nat) : Byte := (b >>> k) &&& 0x01#8

/-- Lanes 0 to n - 1 in ascending order, stopping at the first that raises. -/
def readLanes (lane : Nat → Except DecodeError Word) : Nat → Except DecodeError (List Word)
  | 0 => .ok []
  | n + 1 => do
    let before ← readLanes lane n
    let v ← lane n
    return before ++ [v]

/-- The value array with `vs` in its first slots and zero in the others (10_state R33). -/
def fillValues (vs : List Word) : Values := Vector.ofFn fun i => vs.getD i.val 0x0000#16

/-! ### The unpackers -/

/-- BitUnpack (42_read_bits R145): lane `i` is bit `i % 8` of payload byte `i / 8`. -/
def bitUnpack (frame : List Byte) (q : Nat) : Except DecodeError (List Word) :=
  readLanes (fun i => do
    let b ← memRead8 frame (3 + i / 8)
    return zext16 (bitOf b (i % 8))) q

/-- RegUnpack (43_read_registers R164): the declared count is checked whole, then `bc / 2` big-endian pairs. -/
def regUnpack (frame : List Byte) (bc : Nat) : Except DecodeError (List Word) :=
  if 3 + bc > frame.length then .error .truncatedPayload
  else readLanes (fun k => memRead16 frame (3 + 2 * k)) (bc / 2)

/-! ### The rows of Table R34 (10_state) -/

/-- ADDR_QTY: address and quantity (42_read_bits R144, 44_writes R185). -/
def addrQtyMessage (slave : Byte) (fc : FunctionCode) (addr qty : Word) : Message :=
  { Message.unset with slave := slave, fc := fc.value, shape := .addrQty, addr := addr, qty := qty }

/-- ADDR_VAL: address and one value (44_writes R184). -/
def addrValMessage (slave : Byte) (fc : FunctionCode) (addr v : Word) : Message :=
  { Message.unset with
    slave := slave, fc := fc.value, shape := .addrVal, addr := addr, nval := 0x01#8, val := fillValues [v] }

/-- BITS: the count in BCNT, QTY and NVAL, and the bits (42_read_bits R145, R146). -/
def bitsMessage (slave : Byte) (fc : FunctionCode) (q : Byte) (bits : List Word) : Message :=
  { Message.unset with
    slave := slave, fc := fc.value, shape := .bits, bcnt := q, qty := zext16 q, nval := q, val := fillValues bits }

/-- REGS: the byte count in BCNT, half of it in NVAL, and the values (43_read_registers R164, R165). -/
def regsMessage (slave : Byte) (fc : FunctionCode) (bc : Byte) (regs : List Word) : Message :=
  { Message.unset with
    slave := slave, fc := fc.value, shape := .regs, bcnt := bc, nval := BitVec.ofNat 8 (bc.toNat / 2),
    val := fillValues regs }

/-- STATUS8: one status byte (45_serial_line R200). -/
def status8Message (slave : Byte) (fc : FunctionCode) (status : Byte) : Message :=
  { Message.unset with
    slave := slave, fc := fc.value, shape := .status8, nval := 0x01#8, val := fillValues [zext16 status] }

/-- DIAG: sub-function and data word (45_serial_line R201). -/
def diagMessage (slave : Byte) (fc : FunctionCode) (sub dat : Word) : Message :=
  { Message.unset with
    slave := slave, fc := fc.value, shape := .diag, nval := 0x02#8, val := fillValues [sub, dat] }

/-- EXC: the exception code and whether it is unknown (41_exception_decode R120). -/
def excMessage (slave : Byte) (fc : FunctionCode) (e : Byte) : Message :=
  { Message.unset with
    slave := slave, fc := fc.value, shape := .exc, hasErr := true, errCode := (errMap e).1, errUnk := (errMap e).2 }

/-- The frame of an instruction without the exception flag: slave address, function code, and the bytes from offset 2
(30_encoding R70, R71). -/
def frameOf (slave : Byte) (fc : FunctionCode) (body : List Byte) : List Byte := slave :: fc.value :: body

/-! ### The shared procedures, reading the frame at absolute offsets -/

/-- RequestDecode (42_read_bits R144). -/
def requestDecode (frame : List Byte) (slave : Byte) (fc : FunctionCode) : Except DecodeError Message := do
  let a ← memRead16 frame 2
  let n ← memRead16 frame 4
  return addrQtyMessage slave fc a n

/-- BitResponseDecode (42_read_bits R146). -/
def bitResponseDecode (frame : List Byte) (slave : Byte) (fc : FunctionCode) : Except DecodeError Message := do
  let q ← memRead8 frame 2
  let bits ← bitUnpack frame q.toNat
  return bitsMessage slave fc q bits

/-- RegResponseDecode (43_read_registers R165). -/
def regResponseDecode (frame : List Byte) (slave : Byte) (fc : FunctionCode) : Except DecodeError Message := do
  let bc ← memRead8 frame 2
  let regs ← regUnpack frame bc.toNat
  return regsMessage slave fc bc regs

/-- AddrValDecode (44_writes R184). -/
def addrValDecode (frame : List Byte) (slave : Byte) (fc : FunctionCode) : Except DecodeError Message := do
  let a ← memRead16 frame 2
  let v ← memRead16 frame 4
  return addrValMessage slave fc a v

/-- AddrQtyWriteDecode (44_writes R185). -/
def addrQtyWriteDecode (frame : List Byte) (slave : Byte) (fc : FunctionCode) : Except DecodeError Message := do
  let a ← memRead16 frame 2
  let n ← memRead16 frame 4
  return addrQtyMessage slave fc a n

/-- RES (45_serial_line R200). -/
def statusDecode (frame : List Byte) (slave : Byte) (fc : FunctionCode) : Except DecodeError Message := do
  let status ← memRead8 frame 2
  return status8Message slave fc status

/-- DIAG (45_serial_line R201). -/
def diagDecode (frame : List Byte) (slave : Byte) (fc : FunctionCode) : Except DecodeError Message := do
  let sub ← memRead16 frame 2
  let dat ← memRead16 frame 4
  return diagMessage slave fc sub dat

/-- ExceptionDecode (41_exception_decode R120). -/
def exceptionDecode (frame : List Byte) (slave : Byte) (fc : FunctionCode) : Except DecodeError Message := do
  let e ← memRead8 frame 2
  return excMessage slave fc e

end Sys2Proof.Machine
end

