-- ==== Sys2Proof/Machine/ExceptionResponses.lean ====
section
/-! DEFINITION. The ten exception responses EXC.* (spec 41_exception_decode R123 to R132): all of them R120, apart from the
function code. None fails, and the tail is ignored. -/

namespace Sys2Proof.Machine

/-- EXC.RC (R123). -/
def execExcRc (slave code : Byte) (_tail : List Byte) (s : State) :
    Host.Outcome State Fault Refusal :=
  s.finish (.ok (excMessage slave .readCoils code))

/-- EXC.RDI (R124). -/
def execExcRdi (slave code : Byte) (_tail : List Byte) (s : State) :
    Host.Outcome State Fault Refusal :=
  s.finish (.ok (excMessage slave .readDiscreteInputs code))

/-- EXC.RHR (R125). -/
def execExcRhr (slave code : Byte) (_tail : List Byte) (s : State) :
    Host.Outcome State Fault Refusal :=
  s.finish (.ok (excMessage slave .readHoldingRegisters code))

/-- EXC.RIR (R126). -/
def execExcRir (slave code : Byte) (_tail : List Byte) (s : State) :
    Host.Outcome State Fault Refusal :=
  s.finish (.ok (excMessage slave .readInputRegister code))

/-- EXC.WSC (R127). -/
def execExcWsc (slave code : Byte) (_tail : List Byte) (s : State) :
    Host.Outcome State Fault Refusal :=
  s.finish (.ok (excMessage slave .writeSingleCoil code))

/-- EXC.WSR (R128). -/
def execExcWsr (slave code : Byte) (_tail : List Byte) (s : State) :
    Host.Outcome State Fault Refusal :=
  s.finish (.ok (excMessage slave .writeSingleRegister code))

/-- EXC.RES (R129). -/
def execExcRes (slave code : Byte) (_tail : List Byte) (s : State) :
    Host.Outcome State Fault Refusal :=
  s.finish (.ok (excMessage slave .slReadExceptionStatus code))

/-- EXC.DIAG (R130). -/
def execExcDiag (slave code : Byte) (_tail : List Byte) (s : State) :
    Host.Outcome State Fault Refusal :=
  s.finish (.ok (excMessage slave .slDiagnostics code))

/-- EXC.WMC (R131). -/
def execExcWmc (slave code : Byte) (_tail : List Byte) (s : State) :
    Host.Outcome State Fault Refusal :=
  s.finish (.ok (excMessage slave .writeMultipleCoils code))

/-- EXC.WMR (R132). -/
def execExcWmr (slave code : Byte) (_tail : List Byte) (s : State) :
    Host.Outcome State Fault Refusal :=
  s.finish (.ok (excMessage slave .writeMultipleRegisters code))

end Sys2Proof.Machine
end

