-- ==== Sys2Proof/Machine/Failures.lean ====
section
/-! DEFINITION. The two rows that always fail: SHORT and ILLEGAL (spec 40_envelope_dispatch R102, R103). Their own effect is the
failure outcome; no byte they carry has any influence. -/

namespace Sys2Proof.Machine

/-- SHORT: TooShort, whatever the bytes (R102). -/
def execShort (_bytes : List Byte) (s : State) : Host.Outcome State Fault Refusal :=
  s.finish (.error .tooShort)

/-- ILLEGAL: UndefinedFunctionCode, whatever the bytes; no payload is looked at (R103). -/
def execIllegal (_slave _rawFn : Byte) (_body : List Byte) (s : State) : Host.Outcome State Fault Refusal :=
  s.finish (.error .undefinedFunctionCode)

end Sys2Proof.Machine
end

