-- ==== Sys2Proof/Machine/ReadBits.lean ====
section
/-! DEFINITION. Bit-oriented reads: RC.REQ, RC.RSP, RDI.REQ, RDI.RSP (spec 42_read_bits). -/

namespace Sys2Proof.Machine

/-- RC.REQ: ADDR and QTY as they stand, no check, no failure (R140 over R144). -/
def execRcReq (slave : Byte) (addr qty : Word) (s : State) :
    Host.Outcome State Fault Refusal :=
  s.finish (.ok (addrQtyMessage slave .readCoils addr qty))

/-- RC.RSP: `q` bits, least significant first; TruncatedPayload iff a needed payload byte is missing (R141 over R146). -/
def execRcRsp (slave q : Byte) (payload : List Byte) (s : State) :
    Host.Outcome State Fault Refusal :=
  s.finish (bitResponseDecode (frameOf slave .readCoils (q :: payload)) slave .readCoils)

/-- RDI.REQ: ADDR and QTY as they stand, no check, no failure (R142 over R144). -/
def execRdiReq (slave : Byte) (addr qty : Word) (s : State) :
    Host.Outcome State Fault Refusal :=
  s.finish (.ok (addrQtyMessage slave .readDiscreteInputs addr qty))

/-- RDI.RSP: as RC.RSP but for FC (R143 over R146). -/
def execRdiRsp (slave q : Byte) (payload : List Byte) (s : State) :
    Host.Outcome State Fault Refusal :=
  s.finish (bitResponseDecode (frameOf slave .readDiscreteInputs (q :: payload)) slave .readDiscreteInputs)

end Sys2Proof.Machine
end

