-- ==== Sys2Proof/Machine/ReadRegisters.lean ====
section
/-! DEFINITION. Register-oriented reads: RHR.REQ, RHR.RSP, RIR.REQ, RIR.RSP (spec 43_read_registers). -/

namespace Sys2Proof.Machine

/-- RHR.REQ: ADDR and QTY as they stand, no check, no failure (R160 over R144). -/
def execRhrReq (slave : Byte) (addr qty : Word) (s : State) :
    Host.Outcome State Fault Refusal :=
  s.finish (.ok (addrQtyMessage slave .readHoldingRegisters addr qty))

/-- RHR.RSP: `bc / 2` big-endian values; TruncatedPayload iff `3 + bc > len` (R161 over R165). -/
def execRhrRsp (slave bc : Byte) (payload : List Byte) (s : State) :
    Host.Outcome State Fault Refusal :=
  s.finish (regResponseDecode (frameOf slave .readHoldingRegisters (bc :: payload)) slave .readHoldingRegisters)

/-- RIR.REQ: ADDR and QTY as they stand, no check, no failure (R162 over R144). -/
def execRirReq (slave : Byte) (addr qty : Word) (s : State) :
    Host.Outcome State Fault Refusal :=
  s.finish (.ok (addrQtyMessage slave .readInputRegister addr qty))

/-- RIR.RSP: as RHR.RSP but for FC (R163 over R165). -/
def execRirRsp (slave bc : Byte) (payload : List Byte) (s : State) :
    Host.Outcome State Fault Refusal :=
  s.finish (regResponseDecode (frameOf slave .readInputRegister (bc :: payload)) slave .readInputRegister)

end Sys2Proof.Machine
end

