-- ==== Sys2Proof/Machine/SerialLine.lean ====
section
/-! DEFINITION. Serial-line codes: RES and DIAG (spec 45_serial_line). -/

namespace Sys2Proof.Machine

/-- RES: the status byte zero-extended to VAL[0]; no failure (R200). -/
def execRes (slave status : Byte) (_tail : List Byte) (s : State) :
    Host.Outcome State Fault Refusal :=
  s.finish (.ok (status8Message slave .slReadExceptionStatus status))

/-- DIAG: sub-function and data word, uninterpreted; TruncatedPayload iff len < 6 (R201). -/
def execDiag (slave : Byte) (body : List Byte) (s : State) :
    Host.Outcome State Fault Refusal :=
  s.finish (diagDecode (frameOf slave .slDiagnostics body) slave .slDiagnostics)

end Sys2Proof.Machine
end

