-- ==== Sys2Proof/Machine/Writes.lean ====
section
/-! DEFINITION. Write-type codes: WSC, WSR, WMC, WMR (spec 44_writes). Each raises TruncatedPayload iff len < 6. -/

namespace Sys2Proof.Machine

/-- WSC: address and value word, unchecked (R180 over R184). -/
def execWsc (slave : Byte) (body : List Byte) (s : State) :
    Host.Outcome State Fault Refusal :=
  s.finish (addrValDecode (frameOf slave .writeSingleCoil body) slave .writeSingleCoil)

/-- WSR: address and value (R181 over R184). -/
def execWsr (slave : Byte) (body : List Byte) (s : State) :
    Host.Outcome State Fault Refusal :=
  s.finish (addrValDecode (frameOf slave .writeSingleRegister body) slave .writeSingleRegister)

/-- WMC: address and quantity; the data of a request is not decoded (R182 over R185). -/
def execWmc (slave : Byte) (body : List Byte) (s : State) :
    Host.Outcome State Fault Refusal :=
  s.finish (addrQtyWriteDecode (frameOf slave .writeMultipleCoils body) slave .writeMultipleCoils)

/-- WMR: address and quantity; the data of a request is not decoded (R183 over R185). -/
def execWmr (slave : Byte) (body : List Byte) (s : State) :
    Host.Outcome State Fault Refusal :=
  s.finish (addrQtyWriteDecode (frameOf slave .writeMultipleRegisters body) slave .writeMultipleRegisters)

end Sys2Proof.Machine
end

