-- ==== Sys2Proof/Machine/Dispatch.lean ====
section
/-! DEFINITION. One arm per instruction (spec 40_envelope_dispatch R105 and the rows of opcode_table.json). -/

namespace Sys2Proof.Machine

def exec (i : Instr) (s : State) : Host.Outcome State Fault Refusal :=
  match i with
  | .short bytes => Sys2Proof.Machine.execShort bytes s
  | .rcReq slave addr qty => Sys2Proof.Machine.execRcReq slave addr qty s
  | .rcRsp slave q payload => Sys2Proof.Machine.execRcRsp slave q payload s
  | .rdiReq slave addr qty => Sys2Proof.Machine.execRdiReq slave addr qty s
  | .rdiRsp slave q payload => Sys2Proof.Machine.execRdiRsp slave q payload s
  | .rhrReq slave addr qty => Sys2Proof.Machine.execRhrReq slave addr qty s
  | .rhrRsp slave bc payload => Sys2Proof.Machine.execRhrRsp slave bc payload s
  | .rirReq slave addr qty => Sys2Proof.Machine.execRirReq slave addr qty s
  | .rirRsp slave bc payload => Sys2Proof.Machine.execRirRsp slave bc payload s
  | .wsc slave body => Sys2Proof.Machine.execWsc slave body s
  | .wsr slave body => Sys2Proof.Machine.execWsr slave body s
  | .res slave status tail => Sys2Proof.Machine.execRes slave status tail s
  | .diag slave body => Sys2Proof.Machine.execDiag slave body s
  | .wmc slave body => Sys2Proof.Machine.execWmc slave body s
  | .wmr slave body => Sys2Proof.Machine.execWmr slave body s
  | .excRc slave code tail => Sys2Proof.Machine.execExcRc slave code tail s
  | .excRdi slave code tail => Sys2Proof.Machine.execExcRdi slave code tail s
  | .excRhr slave code tail => Sys2Proof.Machine.execExcRhr slave code tail s
  | .excRir slave code tail => Sys2Proof.Machine.execExcRir slave code tail s
  | .excWsc slave code tail => Sys2Proof.Machine.execExcWsc slave code tail s
  | .excWsr slave code tail => Sys2Proof.Machine.execExcWsr slave code tail s
  | .excRes slave code tail => Sys2Proof.Machine.execExcRes slave code tail s
  | .excDiag slave code tail => Sys2Proof.Machine.execExcDiag slave code tail s
  | .excWmc slave code tail => Sys2Proof.Machine.execExcWmc slave code tail s
  | .excWmr slave code tail => Sys2Proof.Machine.execExcWmr slave code tail s
  | .illegal slave rawFn body => Sys2Proof.Machine.execIllegal slave rawFn body s

end Sys2Proof.Machine
end

