-- ==== Sys2Proof/Machine/Step.lean ====
section
/-! DEFINITION. One step: one DECODE of the frame the host has presented (spec 40_envelope_dispatch R100;
notes/assumptions/4.md). The block has no program counter (10_state R36): the instruction is the frame. -/

namespace Sys2Proof.Machine

/-- DECODE, enabled in every state (R100). -/
def step (s : State) : Host.Outcome State Fault Refusal := exec (decode s.frame) s

/-- `s` with the frame of an opcode-table word presented, so that the next step decodes exactly it
(notes/assumptions/8.md). -/
def State.withFetchWord (s : State) (nbits w : Nat) : State := s.present (tableFrame nbits w)

/-- The host presents frames one after another and the block decodes each (40_envelope_dispatch R109; 95_test_vectors
part 3): the state after the last. -/
def decodeFrames : List (List Byte) → State → Host.Outcome State Fault Refusal
  | [], s => .next s
  | f :: fs, s =>
    match step (s.present f) with
    | .next t => decodeFrames fs t
    | .fault r => .fault r
    | .refused r => .refused r

end Sys2Proof.Machine
end

