-- ==== Sys2Proof/Machine/Envelope.lean ====
section
/-! DEFINITION. The decode as the spec's own procedure over the bytes of a frame (spec 40_envelope_dispatch R101), written
apart from the instruction-by-instruction machine: flag, mask, FcMap, then one arm of Table R105. Statements compare the
two; no step uses this file. -/

namespace Sys2Proof.Machine

/-- `Arm(fc, len)` of Table R105, applied to the frame. -/
def arm (fc : FunctionCode) (frame : List Byte) (slave : Byte) : Except DecodeError Message :=
  match fc with
  | .readCoils | .readDiscreteInputs =>
    if frame.length = Config.reqLen then requestDecode frame slave fc else bitResponseDecode frame slave fc
  | .readHoldingRegisters | .readInputRegister =>
    if frame.length = Config.reqLen then requestDecode frame slave fc else regResponseDecode frame slave fc
  | .writeSingleCoil | .writeSingleRegister => addrValDecode frame slave fc
  | .slReadExceptionStatus => statusDecode frame slave fc
  | .slDiagnostics => diagDecode frame slave fc
  | .writeMultipleCoils | .writeMultipleRegisters => addrQtyWriteDecode frame slave fc
  -- Table R105, last row: FcMap has raised this failure already.
  | .undefined => .error .undefinedFunctionCode

/-- `decode(len, BUF)` of R101. -/
def decodeMessage (frame : List Byte) : Except DecodeError Message :=
  if frame.length < Config.minLen then .error .tooShort
  else do
    let slave ← memRead8 frame 0
    let rawFn ← memRead8 frame 1
    if exceptionFlag rawFn then
      let fc ← fcMap (maskedCode rawFn)
      exceptionDecode frame slave fc
    else
      let fc ← fcMap rawFn
      arm fc frame slave

end Sys2Proof.Machine
end

