-- ==== Sys2Proof/Safety.lean ====
section
/-! DEFINITION. The terms the statements use: BUF by offset, the rows of Table R34 (spec 10_state) written out register by
register, the values an unpacked payload must give, written with bit tests and plain arithmetic and not with the
machine's operations, and the invariant every step keeps (10_state R35). -/

namespace Sys2Proof.Machine

/-- BUF[off] (00_scope R12). Meaningful below `s.len`. -/
def State.byte (s : State) (off : Nat) : Byte := Memory.read s.mem off

/-- `hi * 256 + lo` in a 16-bit register (30_encoding R83). -/
def pairOf (hi lo : Byte) : Word := BitVec.ofNat 16 (hi.toNat * 256 + lo.toNat)

/-- The numbers of the ten known exception codes (41_exception_decode R122). -/
def knownErrorNumbers : List Byte :=
  [0x00#8, 0x01#8, 0x02#8, 0x03#8, 0x04#8, 0x05#8, 0x06#8, 0x08#8, 0x0A#8, 0x0B#8]

/-- The numbers of the ten recognised function codes (40_envelope_dispatch R110). -/
def recognisedNumbers : List Byte :=
  [0x01#8, 0x02#8, 0x03#8, 0x04#8, 0x05#8, 0x06#8, 0x07#8, 0x08#8, 0x0F#8, 0x10#8]

/-! ### What VAL must hold -/

/-- Slot `i` is bit `i % 8` of the byte at offset `3 + i / 8` for `i < q`, zero above (42_read_bits R141). -/
def bitsVal (byteAt : Nat → Byte) (q : Nat) : Values :=
  Vector.ofFn fun i =>
    if i.val < q ∧ (byteAt (3 + i.val / 8)).getLsbD (i.val % 8) then 0x0001#16 else 0x0000#16

/-- Slot `k` is the big-endian pair at offset `3 + 2k` for `k < n`, zero above (43_read_registers R161). -/
def regsVal (byteAt : Nat → Byte) (n : Nat) : Values :=
  Vector.ofFn fun k =>
    if k.val < n then pairOf (byteAt (3 + 2 * k.val)) (byteAt (3 + 2 * k.val + 1)) else 0x0000#16

/-- Slot 0 is `v`, every other slot zero. -/
def oneVal (v : Word) : Values := Vector.ofFn fun i => if i.val = 0 then v else 0x0000#16

/-- Slots 0 and 1 are `v` and `w`, every other slot zero. -/
def twoVal (v w : Word) : Values :=
  Vector.ofFn fun i => if i.val = 0 then v else if i.val = 1 then w else 0x0000#16

/-! ### Table R34, a row a definition: every register is given, and the frame is unchanged -/

/-- Row "failure", with the status that reports it (60_exceptions R212). -/
def State.afterFailure (s : State) (st : Status) : State where
  valid := true
  status := st
  slave := 0x00#8
  fc := 0x00#8
  hasErr := false
  errCode := 0x00#8
  errUnk := false
  addr := 0x0000#16
  qty := 0x0000#16
  shape := .none
  bcnt := 0x00#8
  nval := 0x00#8
  val := Values.zero
  mem := s.mem
  len := s.len

/-- Row "exception response" (41_exception_decode R120). -/
def State.afterException (s : State) (slave fc code : Byte) : State where
  valid := true
  status := .ok
  slave := slave
  fc := fc
  hasErr := true
  errCode := code
  errUnk := !knownErrorNumbers.contains code
  addr := 0x0000#16
  qty := 0x0000#16
  shape := .exc
  bcnt := 0x00#8
  nval := 0x00#8
  val := Values.zero
  mem := s.mem
  len := s.len

/-- Row ADDR_QTY (42_read_bits R144, 44_writes R185). -/
def State.afterAddrQty (s : State) (slave fc : Byte) (addr qty : Word) : State where
  valid := true
  status := .ok
  slave := slave
  fc := fc
  hasErr := false
  errCode := 0x00#8
  errUnk := false
  addr := addr
  qty := qty
  shape := .addrQty
  bcnt := 0x00#8
  nval := 0x00#8
  val := Values.zero
  mem := s.mem
  len := s.len

/-- Row ADDR_VAL (44_writes R184). -/
def State.afterAddrVal (s : State) (slave fc : Byte) (addr v : Word) : State where
  valid := true
  status := .ok
  slave := slave
  fc := fc
  hasErr := false
  errCode := 0x00#8
  errUnk := false
  addr := addr
  qty := 0x0000#16
  shape := .addrVal
  bcnt := 0x00#8
  nval := 0x01#8
  val := oneVal v
  mem := s.mem
  len := s.len

/-- Row BITS (42_read_bits R146). -/
def State.afterBits (s : State) (slave fc q : Byte) (byteAt : Nat → Byte) : State where
  valid := true
  status := .ok
  slave := slave
  fc := fc
  hasErr := false
  errCode := 0x00#8
  errUnk := false
  addr := 0x0000#16
  qty := BitVec.ofNat 16 q.toNat
  shape := .bits
  bcnt := q
  nval := q
  val := bitsVal byteAt q.toNat
  mem := s.mem
  len := s.len

/-- Row REGS (43_read_registers R165). -/
def State.afterRegs (s : State) (slave fc bc : Byte) (byteAt : Nat → Byte) : State where
  valid := true
  status := .ok
  slave := slave
  fc := fc
  hasErr := false
  errCode := 0x00#8
  errUnk := false
  addr := 0x0000#16
  qty := 0x0000#16
  shape := .regs
  bcnt := bc
  nval := BitVec.ofNat 8 (bc.toNat / 2)
  val := regsVal byteAt (bc.toNat / 2)
  mem := s.mem
  len := s.len

/-- Row STATUS8 (45_serial_line R200). -/
def State.afterStatus (s : State) (slave fc status : Byte) : State where
  valid := true
  status := .ok
  slave := slave
  fc := fc
  hasErr := false
  errCode := 0x00#8
  errUnk := false
  addr := 0x0000#16
  qty := 0x0000#16
  shape := .status8
  bcnt := 0x00#8
  nval := 0x01#8
  val := oneVal (BitVec.ofNat 16 status.toNat)
  mem := s.mem
  len := s.len

/-- Row DIAG (45_serial_line R201). -/
def State.afterDiag (s : State) (slave fc : Byte) (sub dat : Word) : State where
  valid := true
  status := .ok
  slave := slave
  fc := fc
  hasErr := false
  errCode := 0x00#8
  errUnk := false
  addr := 0x0000#16
  qty := 0x0000#16
  shape := .diag
  bcnt := 0x00#8
  nval := 0x02#8
  val := twoVal sub dat
  mem := s.mem
  len := s.len

/-! ### Comparing results -/

/-- Every result register of 10_state R20 has the same value in the two states. -/
def State.SameRegisters (s t : State) : Prop :=
  s.valid = t.valid ∧ s.status = t.status ∧ s.slave = t.slave ∧ s.fc = t.fc ∧ s.hasErr = t.hasErr ∧
  s.errCode = t.errCode ∧ s.errUnk = t.errUnk ∧ s.addr = t.addr ∧ s.qty = t.qty ∧ s.shape = t.shape ∧
  s.bcnt = t.bcnt ∧ s.nval = t.nval ∧ s.val = t.val

/-- Every message register is zero and SHAPE is NONE (10_state R34, row "failure"). -/
def State.MessageUnset (s : State) : Prop :=
  s.slave = 0x00#8 ∧ s.fc = 0x00#8 ∧ s.hasErr = false ∧ s.errCode = 0x00#8 ∧ s.errUnk = false ∧
  s.addr = 0x0000#16 ∧ s.qty = 0x0000#16 ∧ s.shape = .none ∧ s.bcnt = 0x00#8 ∧ s.nval = 0x00#8 ∧
  s.val = Values.zero

/-! ### The invariant -/

/-- The invariants of the result registers (10_state R35), with R21 for the time before the first DECODE, R27, and the
counts of R32 and the defaults of Table R34 by shape. -/
structure State.ResultInv (s : State) : Prop where
  /-- R21: while VALID = 0 the registers hold their reset values. -/
  idle : s.valid = false → s.status = .ok ∧ s.MessageUnset
  /-- R35(a). -/
  failed : s.status ≠ .ok → s.MessageUnset
  /-- R35(b), its part about registers alone. -/
  succeeded : s.valid = true → s.status = .ok → s.shape ≠ .none ∧ s.fc ∈ recognisedNumbers
  /-- R35(c). -/
  exception_iff : s.hasErr = true ↔ s.shape = .exc
  /-- R35(c). -/
  exception_empty : s.hasErr = true → s.nval = 0x00#8 ∧ s.addr = 0x0000#16 ∧ s.qty = 0x0000#16 ∧ s.bcnt = 0x00#8
  /-- R35(d). -/
  no_error : s.hasErr = false → s.errCode = 0x00#8 ∧ s.errUnk = false
  /-- R27. -/
  unknown_iff : s.errUnk = true ↔ s.hasErr = true ∧ s.errCode ∉ knownErrorNumbers
  /-- R35(e). -/
  bits_count : s.shape = .bits → s.nval.toNat = s.qty.toNat ∧ s.nval = s.bcnt
  /-- R35(e). -/
  bits_zero_one : s.shape = .bits → ∀ i : Fin Config.valSlots, s.val[i] = 0x0000#16 ∨ s.val[i] = 0x0001#16
  /-- R35(f). -/
  beyond_count : ∀ i : Fin Config.valSlots, s.nval.toNat ≤ i.val → s.val[i] = 0x0000#16
  /-- R35(g). -/
  fc_bit7 : s.fc.getLsbD 7 = false
  /-- R32, the shapes other than BITS. -/
  counts : (s.shape = .regs → s.nval.toNat = s.bcnt.toNat / 2) ∧
    (s.shape = .addrVal ∨ s.shape = .status8 → s.nval = 0x01#8) ∧ (s.shape = .diag → s.nval = 0x02#8) ∧
    (s.shape = .none ∨ s.shape = .exc ∨ s.shape = .addrQty → s.nval = 0x00#8)
  /-- R28, R29, R31: where ADDR, QTY and BCNT are not populated they are zero. -/
  defaults : (s.shape ≠ .addrQty ∧ s.shape ≠ .addrVal → s.addr = 0x0000#16) ∧
    (s.shape ≠ .addrQty ∧ s.shape ≠ .bits → s.qty = 0x0000#16) ∧
    (s.shape ≠ .bits ∧ s.shape ≠ .regs → s.bcnt = 0x00#8)

/-- The frame buffer is in canonical form and lists only offsets of the frame (20_memory R50). -/
def State.MemInv (s : State) : Prop := Memory.wf s.mem ∧ ∀ c ∈ s.mem, c.1 < s.len

/-- What every step keeps. -/
def State.Inv (s : State) : Prop := s.ResultInv ∧ s.MemInv

end Sys2Proof.Machine
end

