-- ==== Sys2Proof/Certificates/Slice0/Obligations.lean ====
section
/-! DEFINITION. The statements about the machine, from the numbered rules of spec/. A statement whose docstring names a
decision D<n> or a log entry rests there on a choice and not on the source. The rows of Table R34 that the statements
name (`State.afterAddrQty` and its like) give every register and leave the frame as it was, so a statement that says
`step s = .next (s.afterAddrQty ..)` states the result and its frame together. -/

open Sys2Proof Sys2Proof.Machine

/-! ### The frame buffer and the two reads -/

/-- R52: inside the frame MemRead(off, 1) is BUF[off]; outside it is TruncatedPayload; in a frame of the minimum length
the offsets 0, 1 and 2 never fail. -/
def Obligations.CheckedByteRead : Prop :=
  ∀ (s : State) (off : Nat),
    (off < s.len → memRead8 s.frame off = .ok (s.byte off)) ∧
    (s.len ≤ off → memRead8 s.frame off = .error .truncatedPayload) ∧
    (3 ≤ s.len → off ≤ 2 → memRead8 s.frame off = .ok (s.byte off))

/-- R53: MemRead(off, 2) is `BUF[off] * 256 + BUF[off + 1]`, or TruncatedPayload if either byte is outside. -/
def Obligations.CheckedPairRead : Prop :=
  ∀ (s : State) (off : Nat),
    (off + 1 < s.len →
      ∃ w, memRead16 s.frame off = .ok w ∧ w.toNat = (s.byte off).toNat * 256 + (s.byte (off + 1)).toNat) ∧
    (s.len ≤ off + 1 → memRead16 s.frame off = .error .truncatedPayload)

/-- The canonical form of notes/assumptions/2.md (the model's choice) is one: equal contents are equal data. -/
def Obligations.CanonicalMemoryUnique : Prop :=
  ∀ m n : Memory, Memory.wf m → Memory.wf n → (∀ off, Memory.read m off = Memory.read n off) → m = n

/-- R43: the result registers hold copies, so nothing the host does to its buffer changes one. -/
def Obligations.HostBufferLeavesRegisters : Prop :=
  ∀ (s : State) (bytes : List Byte) (off : Nat) (b : Byte),
    (s.present bytes).SameRegisters s ∧ (s.overwrite off b).SameRegisters s

/-- A byte the host overwrites inside the frame is the byte the next DECODE finds, and no other byte of the frame changes
(20_memory section 4, notes/assumptions/4.md); an overwrite outside the frame stores nothing (notes/assumptions/12.md). -/
def Obligations.OverwriteSeenByNextFrame : Prop :=
  ∀ (s : State) (off : Nat) (b : Byte),
    (Memory.wf s.mem → off < s.len → (s.overwrite off b).frame = s.frame.set off b) ∧
    (s.len ≤ off → s.overwrite off b = s)

/-! ### Encoding -/

/-- Every operand of every instruction survives encoding (30_encoding section 2; the choice of operands is
notes/assumptions/7.md). -/
def Obligations.DecodeOfEncode : Prop := ∀ i : Instr, WellFormed i → decode (encode i) = i

/-- Every sequence of bytes is the frame of a well-formed instruction, the one it decodes to (30_encoding sections 1 and 3).
That no byte is dropped rests on notes/assumptions/7.md: Instr carries every byte of the frame. That no other well-formed
instruction has the same frame is `Obligations.DecodeOfEncode`. -/
def Obligations.EveryFrameIsOneInstruction : Prop :=
  ∀ bytes : List Byte, WellFormed (decode bytes) ∧ encode (decode bytes) = bytes

/-- A frame of three bytes or more is ILLEGAL exactly when the code in the low seven bits of byte 1 is not one of the
ten recognised ones, whatever the flag, the length and the other bytes (30_encoding section 6, decision D7 for code
0x00; the inference [derived] of the map of all 256 values). -/
def Obligations.IllegalExactlyUnrecognised : Prop :=
  ∀ (slave rawFn b2 : Byte) (rest : List Byte),
    decode (slave :: rawFn :: b2 :: rest) = .illegal slave rawFn (b2 :: rest) ↔
      maskedCode rawFn ∉ recognisedNumbers

/-- Words written out from 30_encoding Table R80 and 95_test_vectors decode to the instruction they stand for. -/
def Obligations.SampleFramesDecode : Prop :=
  decode [0x06#8, 0x01#8, 0x05#8, 0x14#8] = .rcRsp 0x06#8 0x05#8 [0x14#8] ∧
  decode [0x11#8, 0x02#8, 0x16#8, 0xAC#8, 0xDB#8, 0x35#8] = .rdiReq 0x11#8 0x16AC#16 0xDB35#16 ∧
  decode [0x11#8, 0x03#8, 0x04#8, 0x12#8, 0x34#8, 0x56#8, 0x78#8] =
    .rhrRsp 0x11#8 0x04#8 [0x12#8, 0x34#8, 0x56#8, 0x78#8] ∧
  decode [0x11#8, 0x10#8, 0x00#8, 0x01#8, 0x00#8] = .wmr 0x11#8 [0x00#8, 0x01#8, 0x00#8] ∧
  decode [0x11#8, 0x07#8, 0x6D#8] = .res 0x11#8 0x6D#8 [] ∧
  decode [0x06#8, 0x81#8, 0x02#8, 0xDE#8, 0xAD#8] = .excRc 0x06#8 0x02#8 [0xDE#8, 0xAD#8] ∧
  decode [0x06#8, 0x7F#8] = .short [0x06#8, 0x7F#8] ∧
  decode [0x06#8, 0x7F#8, 0x00#8] = .illegal 0x06#8 0x7F#8 [0x00#8]

/-- A step runs the instruction whose frame is presented, and adds nothing around it: there is no program counter to
move (10_state R36, decision D18). The second part is the same of a frame the host has just presented. -/
def Obligations.StepRunsPresentedInstruction : Prop :=
  ∀ (s : State) (i : Instr), WellFormed i →
    (s.frame = encode i → step s = exec i s) ∧
    step (s.present (encode i)) = exec i (s.present (encode i))

/-- A word of the opcode table placed for the next step is the instruction the decoder reads from it, and is what that
step runs (notes/assumptions/8.md, the model's choice). -/
def Obligations.TableWordIsWhatStepRuns : Prop :=
  ∀ (s : State) (nbits w : Nat) (i : Instr), decodeTableWord nbits w = some i →
    step (s.withFetchWord nbits w) = exec i (s.withFetchWord nbits w)

/-! ### The maps and the numbers -/

/-- FcMap returns the ten recognised codes as the variant with that value and raises UndefinedFunctionCode for every other;
it is applied on both paths, to the code with the flag masked off (40_envelope_dispatch section 3). That 0x00 is not
recognised is decision D7 (notes/assumptions/11.md). That a byte with bit 7 set raises too is the model's totality: the
spec's FcMap takes masked bytes only. -/
def Obligations.FunctionCodeMap : Prop :=
  (∀ c : Byte,
    (c ∈ recognisedNumbers → ∃ f, fcMap c = .ok f ∧ f.value = c ∧ f ≠ .undefined) ∧
    (c ∉ recognisedNumbers → fcMap c = .error .undefinedFunctionCode)) ∧
  ∀ s : State, 3 ≤ s.len →
    ∃ t, step s = .next t ∧ (t.status = .undefinedFc ↔ fcMap (maskedCode (s.byte 1)) = .error .undefinedFunctionCode)

/-- ErrMap keeps the byte and marks it unknown exactly when it is none of the ten; as a sum it is the known variant of
that value or the unknown variant with the byte (41_exception_decode section 1, decision D17). -/
def Obligations.ExceptionCodeMap : Prop :=
  ∀ e : Byte,
    errMap e = (e, decide (e ∉ knownErrorNumbers)) ∧
    (e ∈ knownErrorNumbers → ∃ k, errorCodeOf e = .known k ∧ k.value = e) ∧
    (e ∉ knownErrorNumbers → errorCodeOf e = .unknown e)

/-- Every 2-bit number is the code of exactly one STATUS value and every 3-bit number of exactly one SHAPE value, and which
number is which value's (10_state section 2, decisions D4 and D5 for the numbers, notes/assumptions/9.md for the names). -/
def Obligations.StatusAndShapeNumbers : Prop :=
  (∀ n : BitVec 2, ∃ st : Status, st.code = n ∧ ∀ st' : Status, st'.code = n → st' = st) ∧
  (∀ n : BitVec 3, ∃ sh : Shape, sh.code = n ∧ ∀ sh' : Shape, sh'.code = n → sh' = sh) ∧
  Shape.none.code = 0#3 ∧ Shape.exc.code = 1#3 ∧ Shape.addrQty.code = 2#3 ∧ Shape.addrVal.code = 3#3 ∧
  Shape.bits.code = 4#3 ∧ Shape.regs.code = 5#3 ∧ Shape.status8.code = 6#3 ∧ Shape.diag.code = 7#3 ∧
  Status.ok.code = 0#2 ∧ (failureStatus .tooShort).code = 1#2 ∧ (failureStatus .undefinedFunctionCode).code = 2#2 ∧
  (failureStatus .truncatedPayload).code = 3#2

/-! ### What each instruction does, for every frame the host can present -/

/-- R102: a frame of fewer than three bytes fails with TooShort whatever its bytes and leaves no message, and no other
frame does. -/
def Obligations.ShortFrameFails : Prop :=
  ∀ s : State,
    (s.len < 3 → decode s.frame = .short s.frame ∧ step s = .next (s.afterFailure .tooShort)) ∧
    (3 ≤ s.len → ∃ t, step s = .next t ∧ t.status ≠ .tooShort)

/-- A frame whose byte 1 is none of the 20 legal values fails with UndefinedFunctionCode; no other byte and no length of
three or more has any influence (40_envelope_dispatch section 3, decisions D6 and D7). -/
def Obligations.IllegalFrameFails : Prop :=
  ∀ s : State, 3 ≤ s.len → s.byte 1 ∉ legalCodes → step s = .next (s.afterFailure .undefinedFc)

/-- R140, R142, R160, R162 over R144: a six-byte frame of code 0x01 to 0x04 is the request; address and quantity are the
two big-endian pairs, every other register is zero, and nothing fails. -/
def Obligations.ReadRequestResult : Prop :=
  ∀ (s : State) (code : Byte), code ∈ [0x01#8, 0x02#8, 0x03#8, 0x04#8] → s.len = 6 → s.byte 1 = code →
    step s = .next (s.afterAddrQty (s.byte 0) code (pairOf (s.byte 2) (s.byte 3)) (pairOf (s.byte 4) (s.byte 5)))

/-- R141, R143 over R145: a frame of code 0x01 or 0x02 and any other length is the bit response: byte 2 counts the bits,
slot `i` is bit `i % 8` of the byte at `3 + i / 8`, and TruncatedPayload is raised exactly when
`ceil8(q) > len - 3`. -/
def Obligations.BitResponseResult : Prop :=
  ∀ (s : State) (code : Byte), code ∈ [0x01#8, 0x02#8] → 3 ≤ s.len → s.len ≠ 6 → s.byte 1 = code →
    ((((s.byte 2).toNat + 7) / 8 ≤ s.len - 3) →
      step s = .next (s.afterBits (s.byte 0) code (s.byte 2) s.byte)) ∧
    (s.len - 3 < ((s.byte 2).toNat + 7) / 8 → step s = .next (s.afterFailure .truncated))

/-- R161, R163: a frame of code 0x03 or 0x04 and a length other than six is the register response: byte 2 counts the
payload bytes, slot `k` is the big-endian pair at `3 + 2k`, and TruncatedPayload is raised exactly when
`3 + bc > len`. -/
def Obligations.RegisterResponseResult : Prop :=
  ∀ (s : State) (code : Byte), code ∈ [0x03#8, 0x04#8] → 3 ≤ s.len → s.len ≠ 6 → s.byte 1 = code →
    (3 + (s.byte 2).toNat ≤ s.len → step s = .next (s.afterRegs (s.byte 0) code (s.byte 2) s.byte)) ∧
    (s.len < 3 + (s.byte 2).toNat → step s = .next (s.afterFailure .truncated))

/-- Single writes (codes 0x05, 0x06) and multiple writes (0x0F, 0x10) at six bytes or more, and their failure at three to
five bytes (44_writes, decisions D12 and D13 for the layouts, D10 for the bytes after the sixth). -/
def Obligations.WriteFrameResult : Prop :=
  ∀ (s : State) (code : Byte), s.byte 1 = code →
    (code ∈ [0x05#8, 0x06#8] → 6 ≤ s.len →
      step s = .next
        (s.afterAddrVal (s.byte 0) code (pairOf (s.byte 2) (s.byte 3)) (pairOf (s.byte 4) (s.byte 5)))) ∧
    (code ∈ [0x0F#8, 0x10#8] → 6 ≤ s.len →
      step s = .next
        (s.afterAddrQty (s.byte 0) code (pairOf (s.byte 2) (s.byte 3)) (pairOf (s.byte 4) (s.byte 5)))) ∧
    (code ∈ [0x05#8, 0x06#8, 0x0F#8, 0x10#8] → 3 ≤ s.len → s.len < 6 →
      step s = .next (s.afterFailure .truncated))

/-- The serial-line codes: 0x07 at three bytes or more, 0x08 at six or more, and the failure of 0x08 at three to five
(45_serial_line, decisions D14 and D15). -/
def Obligations.SerialLineResult : Prop :=
  ∀ s : State,
    (s.byte 1 = 0x07#8 → 3 ≤ s.len → step s = .next (s.afterStatus (s.byte 0) 0x07#8 (s.byte 2))) ∧
    (s.byte 1 = 0x08#8 → 6 ≤ s.len →
      step s = .next
        (s.afterDiag (s.byte 0) 0x08#8 (pairOf (s.byte 2) (s.byte 3)) (pairOf (s.byte 4) (s.byte 5)))) ∧
    (s.byte 1 = 0x08#8 → 3 ≤ s.len → s.len < 6 → step s = .next (s.afterFailure .truncated))

/-- R120 and R123 to R132: a frame of three bytes or more whose byte 1 is a recognised code with bit 7 set decodes to the
exception response, at every length, six included; bytes from offset 3 on have no influence. -/
def Obligations.ExceptionResponseResult : Prop :=
  ∀ (s : State) (code : Byte), code ∈ recognisedNumbers → 3 ≤ s.len → s.byte 1 = code ||| 0x80#8 →
    step s = .next (s.afterException (s.byte 0) code (s.byte 2))

/-! ### Completion: exec answers a next state -/

/-- SHORT and ILLEGAL run: their own effect is the failure outcome, whatever they carry (40_envelope_dispatch sections 2
and 3; what a failure leaves is decision D6). -/
def Obligations.FailureRowsComplete : Prop :=
  ∀ (s : State) (slave rawFn : Byte) (bytes : List Byte),
    exec (.short bytes) s = .next (s.afterFailure .tooShort) ∧
    exec (.illegal slave rawFn bytes) s = .next (s.afterFailure .undefinedFc)

/-- RC.REQ, RDI.REQ, RHR.REQ and RIR.REQ run on every operand (42_read_bits section 1). -/
def Obligations.ReadRequestsComplete : Prop :=
  ∀ (s : State) (slave : Byte) (addr qty : Word),
    exec (.rcReq slave addr qty) s = .next (s.afterAddrQty slave 0x01#8 addr qty) ∧
    exec (.rdiReq slave addr qty) s = .next (s.afterAddrQty slave 0x02#8 addr qty) ∧
    exec (.rhrReq slave addr qty) s = .next (s.afterAddrQty slave 0x03#8 addr qty) ∧
    exec (.rirReq slave addr qty) s = .next (s.afterAddrQty slave 0x04#8 addr qty)

/-- RC.RSP and RDI.RSP run whenever the payload holds the bits they declare (42_read_bits, decision D9 for the count).
`payload` begins at offset 3. -/
def Obligations.BitResponsesComplete : Prop :=
  ∀ (s : State) (slave q : Byte) (payload : List Byte), (q.toNat + 7) / 8 ≤ payload.length →
    exec (.rcRsp slave q payload) s =
      .next (s.afterBits slave 0x01#8 q fun off => payload.getD (off - 3) 0x00#8) ∧
    exec (.rdiRsp slave q payload) s =
      .next (s.afterBits slave 0x02#8 q fun off => payload.getD (off - 3) 0x00#8)

/-- RHR.RSP and RIR.RSP run whenever the payload has the bytes they declare, an odd count included (43_read_registers,
decision D11). -/
def Obligations.RegisterResponsesComplete : Prop :=
  ∀ (s : State) (slave bc : Byte) (payload : List Byte), bc.toNat ≤ payload.length →
    exec (.rhrRsp slave bc payload) s =
      .next (s.afterRegs slave 0x03#8 bc fun off => payload.getD (off - 3) 0x00#8) ∧
    exec (.rirRsp slave bc payload) s =
      .next (s.afterRegs slave 0x04#8 bc fun off => payload.getD (off - 3) 0x00#8)

/-- WSC, WSR, WMC and WMR run whenever their two fields are present (44_writes, decisions D12, D13 and D10). -/
def Obligations.WritesComplete : Prop :=
  ∀ (s : State) (slave b2 b3 b4 b5 : Byte) (rest : List Byte),
    exec (.wsc slave (b2 :: b3 :: b4 :: b5 :: rest)) s =
      .next (s.afterAddrVal slave 0x05#8 (pairOf b2 b3) (pairOf b4 b5)) ∧
    exec (.wsr slave (b2 :: b3 :: b4 :: b5 :: rest)) s =
      .next (s.afterAddrVal slave 0x06#8 (pairOf b2 b3) (pairOf b4 b5)) ∧
    exec (.wmc slave (b2 :: b3 :: b4 :: b5 :: rest)) s =
      .next (s.afterAddrQty slave 0x0F#8 (pairOf b2 b3) (pairOf b4 b5)) ∧
    exec (.wmr slave (b2 :: b3 :: b4 :: b5 :: rest)) s =
      .next (s.afterAddrQty slave 0x10#8 (pairOf b2 b3) (pairOf b4 b5))

/-- RES runs on every status byte, DIAG whenever its two words are present (45_serial_line, decisions D14 and D15). -/
def Obligations.SerialLineCompletes : Prop :=
  ∀ (s : State) (slave b2 b3 b4 b5 : Byte) (rest : List Byte),
    exec (.res slave b2 rest) s = .next (s.afterStatus slave 0x07#8 b2) ∧
    exec (.diag slave (b2 :: b3 :: b4 :: b5 :: rest)) s =
      .next (s.afterDiag slave 0x08#8 (pairOf b2 b3) (pairOf b4 b5))

/-- The ten EXC.* run on every exception code, known or not, and whatever follows it (41_exception_decode section 2). -/
def Obligations.ExceptionResponsesComplete : Prop :=
  ∀ (s : State) (slave code : Byte) (tail : List Byte),
    exec (.excRc slave code tail) s = .next (s.afterException slave 0x01#8 code) ∧
    exec (.excRdi slave code tail) s = .next (s.afterException slave 0x02#8 code) ∧
    exec (.excRhr slave code tail) s = .next (s.afterException slave 0x03#8 code) ∧
    exec (.excRir slave code tail) s = .next (s.afterException slave 0x04#8 code) ∧
    exec (.excWsc slave code tail) s = .next (s.afterException slave 0x05#8 code) ∧
    exec (.excWsr slave code tail) s = .next (s.afterException slave 0x06#8 code) ∧
    exec (.excRes slave code tail) s = .next (s.afterException slave 0x07#8 code) ∧
    exec (.excDiag slave code tail) s = .next (s.afterException slave 0x08#8 code) ∧
    exec (.excWmc slave code tail) s = .next (s.afterException slave 0x0F#8 code) ∧
    exec (.excWmr slave code tail) s = .next (s.afterException slave 0x10#8 code)

/-- Where an instruction traps and does not complete: a payload or body that is too short is TruncatedPayload, as an
instruction and not only as a frame (60_exceptions section 1; what the failure leaves is decision D6). -/
def Obligations.TruncatedInstructionsFail : Prop :=
  ∀ (s : State) (slave b2 : Byte) (bytes : List Byte),
    (bytes.length < (b2.toNat + 7) / 8 →
      exec (.rcRsp slave b2 bytes) s = .next (s.afterFailure .truncated) ∧
      exec (.rdiRsp slave b2 bytes) s = .next (s.afterFailure .truncated)) ∧
    (bytes.length < b2.toNat →
      exec (.rhrRsp slave b2 bytes) s = .next (s.afterFailure .truncated) ∧
      exec (.rirRsp slave b2 bytes) s = .next (s.afterFailure .truncated)) ∧
    (bytes.length < 4 →
      exec (.wsc slave bytes) s = .next (s.afterFailure .truncated) ∧
      exec (.wsr slave bytes) s = .next (s.afterFailure .truncated) ∧
      exec (.diag slave bytes) s = .next (s.afterFailure .truncated) ∧
      exec (.wmc slave bytes) s = .next (s.afterFailure .truncated) ∧
      exec (.wmr slave bytes) s = .next (s.afterFailure .truncated))

/-- Every instruction, on every operand and in every state, ends in a next state with VALID = 1; the machine never stops
(40_envelope_dispatch section 1, decisions D1 and D21; the totality of 00_scope section 6 is marked derived). -/
def Obligations.EveryInstructionCompletes : Prop :=
  ∀ (s : State) (i : Instr), ∃ t, exec i s = .next t ∧ t.valid = true

/-! ### The whole machine -/

/-- R55: no instruction writes the frame buffer. Every byte reads as before and the length is the same. -/
def Obligations.FrameBufferNeverWritten : Prop :=
  ∀ (i : Instr) (s t : State), exec i s = .next t →
    t.mem = s.mem ∧ t.len = s.len ∧ (∀ off, t.byte off = s.byte off) ∧ t.frame = s.frame

/-- The result registers after a DECODE are a function of the frame alone: no register is read (10_state section 1,
decision D3; the source's property that decoding holds no state across calls). -/
def Obligations.ResultDependsOnFrameAlone : Prop :=
  ∀ s s' : State, s.frame = s'.frame →
    ∃ t t', step s = .next t ∧ step s' = .next t' ∧ t.SameRegisters t'

/-- Decoding the same frame again, any number of times, changes nothing (the source's idempotence property S6 of
95_test_vectors; notes/assumptions/4.md for the frame that stays presented). -/
def Obligations.DecodingAgainChangesNothing : Prop :=
  ∀ (k : Nat) (s : core.State), core.run (k + 1) s = core.step s

/-- A sequence of frames leaves exactly what decoding the last one right after reset leaves: no earlier frame redirects,
skips or colours a later one (40_envelope_dispatch section 4, marked derived there). -/
def Obligations.FrameSequenceIsItsLastFrame : Prop :=
  ∀ (frames : List (List Byte)) (f : List Byte) (s : State),
    decodeFrames (frames ++ [f]) s = step (State.reset.present f)

/-- The step is the spec's own procedure over the bytes of the frame: length check, slave address, flag and map, then one
arm of the dispatch table (40_envelope_dispatch sections 1 and 4). Both sides rest on the spec's decisions
(notes/assumptions/11.md): D7 for code 0x00, D8 for length six, D9 and D11 for the two counts, D12 to D15 for the layouts
of the write and serial-line codes, D17 for the exception code. -/
def Obligations.StepIsTheSpecProcedure : Prop :=
  ∀ s : State, step s = s.finish (decodeMessage s.frame)

/-- R213, R214, R215: the exact cause of each failure. -/
def Obligations.FailureCauses : Prop :=
  ∀ s : State, ∃ t, step s = .next t ∧
    (t.status = .tooShort ↔ s.len < 3) ∧
    (t.status = .undefinedFc ↔ 3 ≤ s.len ∧ (s.byte 1 &&& 0x7F#8) ∉ recognisedNumbers) ∧
    (t.status = .truncated ↔ 3 ≤ s.len ∧
      ((s.byte 1 ∈ [0x01#8, 0x02#8] ∧ s.len ≠ 6 ∧ s.len - 3 < ((s.byte 2).toNat + 7) / 8) ∨
       (s.byte 1 ∈ [0x03#8, 0x04#8] ∧ s.len ≠ 6 ∧ s.len < 3 + (s.byte 2).toNat) ∨
       (s.byte 1 ∈ [0x05#8, 0x06#8, 0x08#8, 0x0F#8, 0x10#8] ∧ s.len < 6)))

/-- A failed DECODE leaves the one state of its failure: no partial message, whatever the frame (60_exceptions section 3,
decisions D6 and D19). -/
def Obligations.FailureLeavesNoMessage : Prop :=
  ∀ s t : State, step s = .next t → t.status ≠ .ok → t = s.afterFailure t.status

/-- R106, with R23: SLAVE is byte 0 after every successful DECODE, uninterpreted, and zero after a failed one. -/
def Obligations.SlaveAddressRegister : Prop :=
  ∀ s : State, ∃ t, step s = .next t ∧
    (t.status = .ok → t.slave = s.byte 0) ∧ (t.status ≠ .ok → t.slave = 0x00#8)

/-- R24: FC is byte 1 without its flag, one of the ten recognised codes after a success and 0x00 after a failure; its bit
7 is never set. -/
def Obligations.FunctionCodeRegister : Prop :=
  ∀ s : State, ∃ t, step s = .next t ∧ t.fc.getLsbD 7 = false ∧
    (t.status = .ok → t.fc = s.byte 1 &&& 0x7F#8 ∧ t.fc ∈ recognisedNumbers) ∧
    (t.status ≠ .ok → t.fc = 0x00#8)

/-- R25, R26: after a success HASERR is bit 7 of byte 1; ERRCODE is byte 2 when HASERR is set, which is only after a
success, and 0x00 when it is not. -/
def Obligations.ErrorFlagAndCodeRegisters : Prop :=
  ∀ s : State, ∃ t, step s = .next t ∧
    (t.status = .ok → t.hasErr = (s.byte 1).getLsbD 7) ∧
    (t.hasErr = true → t.status = .ok ∧ t.errCode = s.byte 2) ∧
    (t.hasErr = false → t.errCode = 0x00#8)

/-- ADDR is populated in exactly the shapes ADDR_QTY and ADDR_VAL, QTY in ADDR_QTY and BITS, and each is zero
in every other; in BITS, QTY is byte 2 zero-extended (10_state section 2; that the write codes keep them at bytes 2 to 5
is decisions D12 and D13). -/
def Obligations.AddressAndQuantityRegisters : Prop :=
  ∀ s : State, ∃ t, step s = .next t ∧
    (t.shape = .addrQty ∨ t.shape = .addrVal → t.addr.toNat = (s.byte 2).toNat * 256 + (s.byte 3).toNat) ∧
    (t.shape ≠ .addrQty → t.shape ≠ .addrVal → t.addr = 0x0000#16) ∧
    (t.shape = .addrQty → t.qty.toNat = (s.byte 4).toNat * 256 + (s.byte 5).toNat) ∧
    (t.shape = .bits → t.qty.toNat = (s.byte 2).toNat) ∧
    (t.shape ≠ .addrQty → t.shape ≠ .bits → t.qty = 0x0000#16)

/-- R107: the flag alone decides the path: with it set the result is an exception response or an unrecognised code and
never a truncated payload, with it clear never an exception response. -/
def Obligations.ExceptionFlagDecidesPath : Prop :=
  ∀ s : State, 3 ≤ s.len → ∃ t, step s = .next t ∧
    (t.status = .ok → t.hasErr = (s.byte 1).getLsbD 7) ∧
    ((s.byte 1).getLsbD 7 = true → t.status ≠ .truncated ∧ (t.status = .ok → t.shape = .exc)) ∧
    ((s.byte 1).getLsbD 7 = false → t.shape ≠ .exc)

/-- R216: an exception response whose code byte is outside the enumeration is no failure. -/
def Obligations.UnknownExceptionCodeDecodes : Prop :=
  ∀ (s : State) (code : Byte), code ∈ recognisedNumbers → 3 ≤ s.len → s.byte 1 = code ||| 0x80#8 →
    s.byte 2 ∉ [0x00#8, 0x01#8, 0x02#8, 0x03#8, 0x04#8, 0x05#8, 0x06#8, 0x08#8, 0x0A#8, 0x0B#8] →
    ∃ t, step s = .next t ∧ t.status = .ok ∧ t.errUnk = true ∧ t.errCode = s.byte 2 ∧
      t.errorCode = .unknown (s.byte 2)

/-- For codes 0x01 to 0x04 the length alone selects the shape: six bytes are a request and succeed, every other length is
never one (40_envelope_dispatch section 4, decision D8). -/
def Obligations.LengthSixSelectsRequest : Prop :=
  ∀ s : State, s.byte 1 ∈ [0x01#8, 0x02#8, 0x03#8, 0x04#8] → 3 ≤ s.len → ∃ t, step s = .next t ∧
    (s.len = 6 → t.status = .ok ∧ t.shape = .addrQty) ∧ (s.len ≠ 6 → t.shape ≠ .addrQty)

/-- Bytes after the part a successful DECODE consumed change no register, as long as they do not move a read code to or
from six bytes (30_encoding section 4, decision D10). -/
def Obligations.TrailingBytesIgnored : Prop :=
  ∀ (s t : State) (frame extra : List Byte), step (s.present frame) = .next t → t.status = .ok →
    (frame.getD 1 0x00#8 ∈ [0x01#8, 0x02#8, 0x03#8, 0x04#8] →
      frame.length ≠ 6 ∧ (frame ++ extra).length ≠ 6) →
    ∃ t', step (s.present (frame ++ extra)) = .next t' ∧ t'.SameRegisters t

/-- The padding bits of a bit response and the bytes after its payload have no influence: frames of one length that agree
on bytes 0 to 2 and on the `q` declared bits decode alike (42_read_bits section 1, marked derived there). -/
def Obligations.PaddingBitsIgnored : Prop :=
  ∀ s s' : State, s.byte 1 ∈ [0x01#8, 0x02#8] → s.len ≠ 6 → s'.len = s.len →
    s'.byte 0 = s.byte 0 → s'.byte 1 = s.byte 1 → s'.byte 2 = s.byte 2 →
    (∀ i < (s.byte 2).toNat, (s'.byte (3 + i / 8)).getLsbD (i % 8) = (s.byte (3 + i / 8)).getLsbD (i % 8)) →
    ∃ t t', step s = .next t ∧ step s' = .next t' ∧ t'.SameRegisters t

/-! ### Invariants and reset -/

/-- After any DECODE from any state the registers meet the invariants of 10_state R35 (marked derived there), R21, R27 and
R32, and its clause (b) about the frame. -/
def Obligations.ResultInvariantsAfterDecode : Prop :=
  ∀ s : State, ∃ t, step s = .next t ∧ t.ResultInv ∧ t.valid = true ∧
    (t.status = .ok → t.slave = s.byte 0 ∧ t.fc = maskedCode (s.byte 1) ∧ t.hasErr = exceptionFlag (s.byte 1))

/-- Every step keeps the invariant: the registers' invariants and the canonical form of the frame buffer, which is the
model's own (notes/assumptions/2.md). -/
def Obligations.StepKeepsInvariant : Prop :=
  ∀ s t : State, s.Inv → step s = .next t → t.Inv

/-- What the host does between two DECODE operations keeps the invariant too: presenting a frame, overwriting a byte of
it, resetting the block (10_state section 1, decision D3; notes/assumptions/4.md). Its half about the buffer is the model's:
the canonical form (notes/assumptions/2.md), and an overwrite outside the frame that stores nothing
(notes/assumptions/12.md). -/
def Obligations.HostKeepsInvariant : Prop :=
  ∀ (s : State) (bytes : List Byte) (off : Nat) (b : Byte), s.Inv →
    (s.present bytes).Inv ∧ (s.overwrite off b).Inv ∧ s.resetRegisters.Inv

/-- The invariant holds at reset. -/
def Obligations.ResetMeetsInvariant : Prop := State.reset.Inv

/-- Reset writes every result register with zero and VALID with 0 and does not touch the frame, whatever the state before
(70_reset_and_hazards section 1, decision D21); the machine right after reset is such a state. -/
def Obligations.ResetRegisterValues : Prop :=
  (∀ s : State,
    s.resetRegisters.valid = false ∧ s.resetRegisters.status.code = 0#2 ∧ s.resetRegisters.shape.code = 0#3 ∧
    s.resetRegisters.MessageUnset ∧ (∀ i : Fin Config.valSlots, s.resetRegisters.val[i] = 0x0000#16) ∧
    s.resetRegisters.mem = s.mem ∧ s.resetRegisters.len = s.len) ∧
  State.reset.resetRegisters = State.reset
end

