-- ==== Sys2Proof/Laws/Decode.lean ====
section
/-! SUPPORT. The byte-order helpers, the shape selection and the shape of encoded frames. -/

namespace Sys2Proof

theorem be16_toNat (hi lo : Byte) : (be16 hi lo).toNat = hi.toNat * 256 + lo.toNat := by
  have := hi.isLt
  have := lo.isLt
  simp only [be16, BitVec.toNat_ofNat]
  omega

@[simp] theorem hiByte_be16 (hi lo : Byte) : hiByte (be16 hi lo) = hi := by
  have := hi.isLt
  have := lo.isLt
  apply BitVec.eq_of_toNat_eq
  simp only [hiByte, be16_toNat, BitVec.toNat_ofNat]
  omega

@[simp] theorem loByte_be16 (hi lo : Byte) : loByte (be16 hi lo) = lo := by
  have := lo.isLt
  apply BitVec.eq_of_toNat_eq
  simp only [loByte, be16_toNat, BitVec.toNat_ofNat]
  omega

@[simp] theorem be16_hiByte_loByte (w : Word) : be16 (hiByte w) (loByte w) = w := by
  have := w.isLt
  apply BitVec.eq_of_toNat_eq
  simp only [be16_toNat, hiByte, loByte, BitVec.toNat_ofNat]
  omega

/-- What shape selection can answer: the request at three bytes from offset 3, the response otherwise. -/
theorem decodeRead_cases (req : Word → Word → Instr) (rsp : Byte → List Byte → Instr) (b2 : Byte) (rest : List Byte) :
    (∃ b3 b4 b5, rest = [b3, b4, b5] ∧ decodeRead req rsp b2 rest = req (be16 b2 b3) (be16 b4 b5)) ∨
    (rest.length ≠ 3 ∧ decodeRead req rsp b2 rest = rsp b2 rest) := by
  unfold decodeRead
  split
  · exact .inl ⟨_, _, _, rfl, rfl⟩
  · next h =>
    refine .inr ⟨fun hl => ?_, rfl⟩
    obtain ⟨x, y, z, rfl⟩ := List.length_eq_three.1 hl
    exact h x y z rfl

theorem decodeRead_of_length_ne (req : Word → Word → Instr) (rsp : Byte → List Byte → Instr) (b2 : Byte)
    {rest : List Byte} (h : rest.length ≠ 3) : decodeRead req rsp b2 rest = rsp b2 rest := by
  rcases decodeRead_cases req rsp b2 rest with ⟨_, _, _, rfl, -⟩ | ⟨-, hr⟩
  · exact absurd rfl h
  · exact hr

/-- A frame of at least three bytes is not SHORT. -/
theorem decode_long (slave rawFn b2 : Byte) (rest : List Byte) :
    decode (slave :: rawFn :: b2 :: rest) = decodeLong slave rawFn b2 rest := rfl

/-- A frame of fewer than three bytes is SHORT. -/
theorem decode_of_length_lt {bs : List Byte} (h : bs.length < 3) : decode bs = .short bs := by
  match bs, h with
  | [], _ => rfl
  | [_], _ => rfl
  | [_, _], _ => rfl

/-- A byte 1 outside the 20 legal values is ILLEGAL. -/
theorem decodeLong_illegal {rawFn : Byte} (h : rawFn ∉ legalCodes) (slave b2 : Byte) (rest : List Byte) :
    decodeLong slave rawFn b2 rest = .illegal slave rawFn (b2 :: rest) := by
  simp only [legalCodes, List.cons_append, List.nil_append, List.mem_cons, List.not_mem_nil, or_false, not_or] at h
  unfold decodeLong
  split <;> simp_all

end Sys2Proof
end

