-- ==== Sys2Proof/Laws/Memory.lean ====
section
/-! SUPPORT. The frame buffer: a read after a write, and that every operation keeps the canonical form. -/

namespace Sys2Proof.Machine

/-- Below the first listed offset nothing is listed. -/
theorem Memory.read_of_lt {m : Memory} {off : Nat} (h : ∀ c ∈ m, off < c.1) :
    Memory.read m off = Memory.unlisted := by
  induction m with
  | nil => rfl
  | cons c m ih =>
    have hc := h c (by simp)
    simp only [Memory.read]
    rw [if_neg (by omega), ih fun d hd => h d (by simp [hd])]

/-- A stored byte is listed at an offset the memory had, or at the one stored to. -/
theorem Memory.mem_write {m : Memory} {off : Nat} {v : Byte} {c : Host.Cell} (h : c ∈ Memory.write m off v) :
    c ∈ m ∨ (c = (off, v) ∧ v ≠ Memory.unlisted) := by
  induction m with
  | nil =>
    simp only [Memory.write] at h
    split at h <;> simp_all
  | cons d m ih =>
    obtain ⟨a, b⟩ := d
    simp only [Memory.write] at h
    split at h
    · rcases List.mem_cons.1 h with h | h
      · exact .inl (by simp [h])
      · exact (ih h).imp_left fun h => by simp [h]
    · split at h <;> split at h <;> simp_all <;> grind

/-- A write keeps the canonical form. -/
theorem Memory.wf_write {m : Memory} (h : Memory.wf m) (off : Nat) (v : Byte) : Memory.wf (Memory.write m off v) := by
  refine ⟨?_, fun c hc => ?_⟩
  · obtain ⟨hs, -⟩ := h
    induction m with
    | nil => simp only [Memory.write]; split <;> simp
    | cons d m ih =>
      obtain ⟨a, b⟩ := d
      obtain ⟨hd, hm⟩ := List.pairwise_cons.1 hs
      simp only [Memory.write]
      split
      · refine List.pairwise_cons.2 ⟨fun c hc => ?_, ih hm⟩
        rcases Memory.mem_write hc with hc | ⟨rfl, -⟩
        · exact hd c hc
        · assumption
      · split <;> split <;> grind [List.pairwise_cons]
  · rcases Memory.mem_write hc with hc | ⟨rfl, hv⟩
    · exact h.2 c hc
    · exact hv

/-- A read after a write: the byte written at its offset, every other offset as before. -/
theorem Memory.read_write {m : Memory} (h : Memory.wf m) (off : Nat) (v : Byte) (x : Nat) :
    Memory.read (Memory.write m off v) x = if x = off then v else Memory.read m x := by
  obtain ⟨hs, -⟩ := h
  induction m with
  | nil => simp only [Memory.write]; grind [Memory.read]
  | cons d m ih =>
    obtain ⟨a, b⟩ := d
    obtain ⟨hd, hm⟩ := List.pairwise_cons.1 hs
    have hlt : ∀ y, y ≤ a → Memory.read m y = Memory.unlisted := fun y hy =>
      Memory.read_of_lt fun c hc => by have := hd c hc; simp only at this; omega
    have h₁ := hlt off
    have h₂ := hlt x
    have ih := ih hm
    simp only [Memory.write]
    split <;> simp only [Memory.read] <;> grind [Memory.read]

/-- Storing a run of bytes keeps the canonical form. -/
theorem Memory.wf_writeBytes {m : Memory} (h : Memory.wf m) (off : Nat) (bs : List Byte) :
    Memory.wf (Memory.writeBytes m off bs) := by
  induction bs generalizing m off with
  | nil => exact h
  | cons b bs ih => exact ih (Memory.wf_write h off b) _

/-- A read after storing a run of bytes. -/
theorem Memory.read_writeBytes {m : Memory} (h : Memory.wf m) (off : Nat) (bs : List Byte) (x : Nat) :
    Memory.read (Memory.writeBytes m off bs) x =
      if off ≤ x then bs.getD (x - off) (Memory.read m x) else Memory.read m x := by
  induction bs generalizing m off with
  | nil => simp [Memory.writeBytes]
  | cons b bs ih =>
    rw [Memory.writeBytes, ih (Memory.wf_write h off b), Memory.read_write h]
    by_cases hx : off + 1 ≤ x
    · rw [if_pos hx, if_neg (show ¬x = off by omega), if_pos (show off ≤ x by omega), show x - off = x - (off + 1) + 1 by omega]
      rfl
    · rw [if_neg hx]
      by_cases h' : x = off
      · simp [h']
      · rw [if_neg h', if_neg (show ¬off ≤ x by omega)]

theorem State.wf_reset : Memory.wf State.reset.mem := by decide

theorem State.wf_present (s : State) (bs : List Byte) : Memory.wf (s.present bs).mem :=
  Memory.wf_writeBytes (by decide) 0 bs

theorem State.wf_overwrite {s : State} (h : Memory.wf s.mem) (off : Nat) (b : Byte) :
    Memory.wf (s.overwrite off b).mem := by
  unfold State.overwrite
  split
  · exact Memory.wf_write h off b
  · exact h

/-- The frame of a state has `len` bytes. -/
@[simp] theorem State.length_frame (s : State) : s.frame.length = s.len := by simp [State.frame]

/-- The frame of a state, byte by byte. -/
theorem State.getElem?_frame (s : State) (off : Nat) :
    s.frame[off]? = if off < s.len then some (Memory.read s.mem off) else none := by
  simp only [State.frame, List.getElem?_map]
  split <;> simp [*]

/-- The frame the host presents is the frame the next DECODE takes. -/
@[simp] theorem State.frame_present (s : State) (bs : List Byte) : (s.present bs).frame = bs := by
  apply List.ext_getElem?
  intro off
  rw [State.getElem?_frame]
  simp only [State.present, Memory.read_writeBytes (m := []) (by decide)]
  split <;> simp_all

end Sys2Proof.Machine
end

