-- ==== Sys2Proof/Laws/Reads.lean ====
section
/-! SUPPORT. The checked reads, the lanes of the unpackers, and each shared procedure's one answer. -/

namespace Sys2Proof.Machine

/-! ### Sequencing of results that may fail -/

@[simp] theorem ok_bind {α β : Type} (a : α) (f : α → Except DecodeError β) : (Except.ok a >>= f) = f a := rfl

@[simp] theorem error_bind {α β : Type} (e : DecodeError) (f : α → Except DecodeError β) :
    (Except.error e >>= f) = .error e := rfl

@[simp] theorem pure_ok {α : Type} (a : α) : (pure a : Except DecodeError α) = .ok a := rfl

/-! ### The reads -/

theorem memRead8_of_lt {frame : List Byte} {off : Nat} (h : off < frame.length) :
    memRead8 frame off = .ok frame[off] := by simp [memRead8, h]

theorem memRead8_of_le {frame : List Byte} {off : Nat} (h : frame.length ≤ off) :
    memRead8 frame off = .error .truncatedPayload := by simp [memRead8, h]

theorem memRead16_of_lt {frame : List Byte} {off : Nat} (h : off + 1 < frame.length) :
    memRead16 frame off = .ok (be16 frame[off] frame[off + 1]) := by
  simp [memRead16, memRead8_of_lt (show off < frame.length by omega), memRead8_of_lt h]

theorem memRead16_of_le {frame : List Byte} {off : Nat} (h : frame.length ≤ off + 1) :
    memRead16 frame off = .error .truncatedPayload := by
  by_cases h' : frame.length ≤ off
  · simp [memRead16, memRead8_of_le h']
  · simp [memRead16, memRead8_of_lt (show off < frame.length by omega), memRead8_of_le h]

/-! ### Lanes -/

/-- If every lane answers, the lanes answer in ascending order. -/
theorem readLanes_ok {lane : Nat → Except DecodeError Word} {f : Nat → Word} {n : Nat}
    (h : ∀ i < n, lane i = .ok (f i)) : readLanes lane n = .ok ((List.range n).map f) := by
  induction n with
  | zero => rfl
  | succ n ih => simp [readLanes, ih fun i hi => h i (by omega), h n (by omega), List.range_succ]

/-- If some lane raises, and lanes only ever raise `e`, the whole raises `e`. -/
theorem readLanes_error {lane : Nat → Except DecodeError Word} {e : DecodeError} {n : Nat}
    (h : ∃ i < n, lane i = .error e) (he : ∀ i < n, ∀ e', lane i = .error e' → e' = e) :
    readLanes lane n = .error e := by
  induction n with
  | zero => obtain ⟨i, hi, -⟩ := h; omega
  | succ n ih =>
    by_cases hb : ∃ i < n, lane i = .error e
    · simp [readLanes, ih hb fun i hi => he i (by omega)]
    · obtain ⟨i, hi, hl⟩ := h
      obtain rfl : i = n := by
        by_contra hne
        exact hb ⟨i, by omega, hl⟩
      have hok : ∀ j < i, ∃ v, lane j = .ok v := fun j hj => by
        cases hj' : lane j with
        | ok v => exact ⟨v, rfl⟩
        | error e' => exact absurd ⟨j, hj, by rw [hj', he j (by omega) e' hj']⟩ hb
      choose! f hf using hok
      simp [readLanes, readLanes_ok hf, hl]

@[simp] theorem fillValues_getElem (vs : List Word) (i : Nat) (h : i < Config.valSlots) :
    (fillValues vs)[i] = vs.getD i 0x0000#16 := by simp [fillValues]

/-! ### The unpackers -/

theorem bitUnpack_ok {frame : List Byte} {q : Nat} (h : ceil8 q + 3 ≤ frame.length) :
    bitUnpack frame q =
      .ok ((List.range q).map fun i => zext16 (bitOf (frame.getD (3 + i / 8) 0x00#8) (i % 8))) := by
  refine readLanes_ok fun i hi => ?_
  have hlt : 3 + i / 8 < frame.length := by unfold ceil8 at h; omega
  simp [memRead8_of_lt hlt, hlt]

theorem bitUnpack_error {frame : List Byte} {q : Nat} (hf : 3 ≤ frame.length) (h : frame.length < ceil8 q + 3) :
    bitUnpack frame q = .error .truncatedPayload := by
  unfold ceil8 at h
  refine readLanes_error ⟨q - 1, by omega, ?_⟩ fun i _ e' he' => ?_
  · rw [memRead8_of_le (by omega)]; rfl
  · by_cases hi : 3 + i / 8 < frame.length
    · rw [memRead8_of_lt hi] at he'; cases he'
    · rw [memRead8_of_le (by omega)] at he'; cases he'; rfl

theorem regUnpack_ok {frame : List Byte} {bc : Nat} (h : 3 + bc ≤ frame.length) :
    regUnpack frame bc = .ok ((List.range (bc / 2)).map fun k =>
      be16 (frame.getD (3 + 2 * k) 0x00#8) (frame.getD (3 + 2 * k + 1) 0x00#8)) := by
  rw [regUnpack, if_neg (by omega)]
  refine readLanes_ok fun k hk => ?_
  have hlt : 3 + 2 * k + 1 < frame.length := by omega
  rw [memRead16_of_lt hlt]
  simp [hlt, show 3 + 2 * k < frame.length by omega]

theorem regUnpack_error {frame : List Byte} {bc : Nat} (h : frame.length < 3 + bc) :
    regUnpack frame bc = .error .truncatedPayload := by rw [regUnpack, if_pos (by omega)]

/-! ### The fixed-offset procedures: the first six bytes, or the failure -/

/-- Two 16-bit reads at offsets 2 and 4 of a frame of at least six bytes. -/
theorem two_fields_of_long {α : Type} {frame : List Byte} (h : 6 ≤ frame.length) (f : Word → Word → α) :
    (do let a ← memRead16 frame 2; let n ← memRead16 frame 4; return f a n : Except DecodeError α) =
      .ok (f (be16 (frame.getD 2 0x00#8) (frame.getD 3 0x00#8)) (be16 (frame.getD 4 0x00#8) (frame.getD 5 0x00#8))) := by
  rw [memRead16_of_lt (by omega), memRead16_of_lt (by omega)]
  simp [show 2 < frame.length by omega, show 3 < frame.length by omega, show 4 < frame.length by omega,
    show 5 < frame.length by omega]

/-- A shorter frame fails at one of them. -/
theorem two_fields_of_short {α : Type} {frame : List Byte} (h : frame.length < 6) (f : Word → Word → α) :
    (do let a ← memRead16 frame 2; let n ← memRead16 frame 4; return f a n : Except DecodeError α) =
      .error .truncatedPayload := by
  by_cases h' : frame.length ≤ 3
  · rw [memRead16_of_le (by omega)]; rfl
  · rw [memRead16_of_lt (by omega), memRead16_of_le (by omega)]; rfl

end Sys2Proof.Machine
end

