-- ==== Sys2Proof/Laws/State.lean ====
section
/-! SUPPORT. What each update of the state leaves in each field. -/

namespace Sys2Proof.Machine

/-! ### The success outcome -/

@[simp] theorem State.succeed_valid (s : State) (m : Message) : (s.succeed m).valid = true := rfl
@[simp] theorem State.succeed_status (s : State) (m : Message) : (s.succeed m).status = .ok := rfl
@[simp] theorem State.succeed_slave (s : State) (m : Message) : (s.succeed m).slave = m.slave := rfl
@[simp] theorem State.succeed_fc (s : State) (m : Message) : (s.succeed m).fc = m.fc := rfl
@[simp] theorem State.succeed_hasErr (s : State) (m : Message) : (s.succeed m).hasErr = m.hasErr := rfl
@[simp] theorem State.succeed_errCode (s : State) (m : Message) : (s.succeed m).errCode = m.errCode := rfl
@[simp] theorem State.succeed_errUnk (s : State) (m : Message) : (s.succeed m).errUnk = m.errUnk := rfl
@[simp] theorem State.succeed_addr (s : State) (m : Message) : (s.succeed m).addr = m.addr := rfl
@[simp] theorem State.succeed_qty (s : State) (m : Message) : (s.succeed m).qty = m.qty := rfl
@[simp] theorem State.succeed_shape (s : State) (m : Message) : (s.succeed m).shape = m.shape := rfl
@[simp] theorem State.succeed_bcnt (s : State) (m : Message) : (s.succeed m).bcnt = m.bcnt := rfl
@[simp] theorem State.succeed_nval (s : State) (m : Message) : (s.succeed m).nval = m.nval := rfl
@[simp] theorem State.succeed_val (s : State) (m : Message) : (s.succeed m).val = m.val := rfl
@[simp] theorem State.succeed_mem (s : State) (m : Message) : (s.succeed m).mem = s.mem := rfl
@[simp] theorem State.succeed_len (s : State) (m : Message) : (s.succeed m).len = s.len := rfl

/-! ### The failure outcome -/

@[simp] theorem State.raise_valid (s : State) (e : DecodeError) : (s.raise e).valid = true := rfl
@[simp] theorem State.raise_status (s : State) (e : DecodeError) : (s.raise e).status = failureStatus e := rfl
@[simp] theorem State.raise_slave (s : State) (e : DecodeError) : (s.raise e).slave = 0x00#8 := rfl
@[simp] theorem State.raise_fc (s : State) (e : DecodeError) : (s.raise e).fc = 0x00#8 := rfl
@[simp] theorem State.raise_hasErr (s : State) (e : DecodeError) : (s.raise e).hasErr = false := rfl
@[simp] theorem State.raise_errCode (s : State) (e : DecodeError) : (s.raise e).errCode = 0x00#8 := rfl
@[simp] theorem State.raise_errUnk (s : State) (e : DecodeError) : (s.raise e).errUnk = false := rfl
@[simp] theorem State.raise_addr (s : State) (e : DecodeError) : (s.raise e).addr = 0x0000#16 := rfl
@[simp] theorem State.raise_qty (s : State) (e : DecodeError) : (s.raise e).qty = 0x0000#16 := rfl
@[simp] theorem State.raise_shape (s : State) (e : DecodeError) : (s.raise e).shape = .none := rfl
@[simp] theorem State.raise_bcnt (s : State) (e : DecodeError) : (s.raise e).bcnt = 0x00#8 := rfl
@[simp] theorem State.raise_nval (s : State) (e : DecodeError) : (s.raise e).nval = 0x00#8 := rfl
@[simp] theorem State.raise_val (s : State) (e : DecodeError) : (s.raise e).val = Values.zero := rfl
@[simp] theorem State.raise_mem (s : State) (e : DecodeError) : (s.raise e).mem = s.mem := rfl
@[simp] theorem State.raise_len (s : State) (e : DecodeError) : (s.raise e).len = s.len := rfl

/-! ### A frame presented -/

@[simp] theorem State.present_valid (s : State) (bs : List Byte) : (s.present bs).valid = s.valid := rfl
@[simp] theorem State.present_status (s : State) (bs : List Byte) : (s.present bs).status = s.status := rfl
@[simp] theorem State.present_slave (s : State) (bs : List Byte) : (s.present bs).slave = s.slave := rfl
@[simp] theorem State.present_fc (s : State) (bs : List Byte) : (s.present bs).fc = s.fc := rfl
@[simp] theorem State.present_hasErr (s : State) (bs : List Byte) : (s.present bs).hasErr = s.hasErr := rfl
@[simp] theorem State.present_errCode (s : State) (bs : List Byte) : (s.present bs).errCode = s.errCode := rfl
@[simp] theorem State.present_errUnk (s : State) (bs : List Byte) : (s.present bs).errUnk = s.errUnk := rfl
@[simp] theorem State.present_addr (s : State) (bs : List Byte) : (s.present bs).addr = s.addr := rfl
@[simp] theorem State.present_qty (s : State) (bs : List Byte) : (s.present bs).qty = s.qty := rfl
@[simp] theorem State.present_shape (s : State) (bs : List Byte) : (s.present bs).shape = s.shape := rfl
@[simp] theorem State.present_bcnt (s : State) (bs : List Byte) : (s.present bs).bcnt = s.bcnt := rfl
@[simp] theorem State.present_nval (s : State) (bs : List Byte) : (s.present bs).nval = s.nval := rfl
@[simp] theorem State.present_val (s : State) (bs : List Byte) : (s.present bs).val = s.val := rfl
@[simp] theorem State.present_mem (s : State) (bs : List Byte) :
    (s.present bs).mem = Memory.writeBytes [] 0 bs := rfl
@[simp] theorem State.present_len (s : State) (bs : List Byte) : (s.present bs).len = bs.length := rfl

/-! ### A byte overwritten by the host -/

@[simp] theorem State.overwrite_valid (s : State) (off : Nat) (b : Byte) : (s.overwrite off b).valid = s.valid := by
  unfold State.overwrite; split <;> rfl
@[simp] theorem State.overwrite_status (s : State) (off : Nat) (b : Byte) : (s.overwrite off b).status = s.status := by
  unfold State.overwrite; split <;> rfl
@[simp] theorem State.overwrite_slave (s : State) (off : Nat) (b : Byte) : (s.overwrite off b).slave = s.slave := by
  unfold State.overwrite; split <;> rfl
@[simp] theorem State.overwrite_fc (s : State) (off : Nat) (b : Byte) : (s.overwrite off b).fc = s.fc := by
  unfold State.overwrite; split <;> rfl
@[simp] theorem State.overwrite_hasErr (s : State) (off : Nat) (b : Byte) : (s.overwrite off b).hasErr = s.hasErr := by
  unfold State.overwrite; split <;> rfl
@[simp] theorem State.overwrite_errCode (s : State) (off : Nat) (b : Byte) : (s.overwrite off b).errCode = s.errCode := by
  unfold State.overwrite; split <;> rfl
@[simp] theorem State.overwrite_errUnk (s : State) (off : Nat) (b : Byte) : (s.overwrite off b).errUnk = s.errUnk := by
  unfold State.overwrite; split <;> rfl
@[simp] theorem State.overwrite_addr (s : State) (off : Nat) (b : Byte) : (s.overwrite off b).addr = s.addr := by
  unfold State.overwrite; split <;> rfl
@[simp] theorem State.overwrite_qty (s : State) (off : Nat) (b : Byte) : (s.overwrite off b).qty = s.qty := by
  unfold State.overwrite; split <;> rfl
@[simp] theorem State.overwrite_shape (s : State) (off : Nat) (b : Byte) : (s.overwrite off b).shape = s.shape := by
  unfold State.overwrite; split <;> rfl
@[simp] theorem State.overwrite_bcnt (s : State) (off : Nat) (b : Byte) : (s.overwrite off b).bcnt = s.bcnt := by
  unfold State.overwrite; split <;> rfl
@[simp] theorem State.overwrite_nval (s : State) (off : Nat) (b : Byte) : (s.overwrite off b).nval = s.nval := by
  unfold State.overwrite; split <;> rfl
@[simp] theorem State.overwrite_val (s : State) (off : Nat) (b : Byte) : (s.overwrite off b).val = s.val := by
  unfold State.overwrite; split <;> rfl
@[simp] theorem State.overwrite_len (s : State) (off : Nat) (b : Byte) : (s.overwrite off b).len = s.len := by
  unfold State.overwrite; split <;> rfl

/-! ### Reset -/

@[simp] theorem State.resetRegisters_valid (s : State) : s.resetRegisters.valid = State.reset.valid := rfl
@[simp] theorem State.resetRegisters_status (s : State) : s.resetRegisters.status = State.reset.status := rfl
@[simp] theorem State.resetRegisters_slave (s : State) : s.resetRegisters.slave = State.reset.slave := rfl
@[simp] theorem State.resetRegisters_fc (s : State) : s.resetRegisters.fc = State.reset.fc := rfl
@[simp] theorem State.resetRegisters_hasErr (s : State) : s.resetRegisters.hasErr = State.reset.hasErr := rfl
@[simp] theorem State.resetRegisters_errCode (s : State) : s.resetRegisters.errCode = State.reset.errCode := rfl
@[simp] theorem State.resetRegisters_errUnk (s : State) : s.resetRegisters.errUnk = State.reset.errUnk := rfl
@[simp] theorem State.resetRegisters_addr (s : State) : s.resetRegisters.addr = State.reset.addr := rfl
@[simp] theorem State.resetRegisters_qty (s : State) : s.resetRegisters.qty = State.reset.qty := rfl
@[simp] theorem State.resetRegisters_shape (s : State) : s.resetRegisters.shape = State.reset.shape := rfl
@[simp] theorem State.resetRegisters_bcnt (s : State) : s.resetRegisters.bcnt = State.reset.bcnt := rfl
@[simp] theorem State.resetRegisters_nval (s : State) : s.resetRegisters.nval = State.reset.nval := rfl
@[simp] theorem State.resetRegisters_val (s : State) : s.resetRegisters.val = State.reset.val := rfl
@[simp] theorem State.resetRegisters_mem (s : State) : s.resetRegisters.mem = s.mem := rfl
@[simp] theorem State.resetRegisters_len (s : State) : s.resetRegisters.len = s.len := rfl

/-! ### The outcomes as outcomes -/

@[simp] theorem State.finish_ok (s : State) (m : Message) : s.finish (.ok m) = .next (s.succeed m) := rfl

@[simp] theorem State.finish_error (s : State) (e : DecodeError) : s.finish (.error e) = .next (s.raise e) := rfl

/-- All that the end of a DECODE can do: one of the two outcomes. -/
theorem State.finish_cases {s t : State} {r : Except DecodeError Message} (h : s.finish r = .next t) :
    (∃ m, r = .ok m ∧ t = s.succeed m) ∨ ∃ e, r = .error e ∧ t = s.raise e := by
  cases r with
  | ok m => exact .inl ⟨m, rfl, by simpa using h.symm⟩
  | error e => exact .inr ⟨e, rfl, by simpa using h.symm⟩

end Sys2Proof.Machine
end

