-- ==== Sys2Proof/Laws/Step.lean ====
section
/-! SUPPORT. Every instruction ends one DECODE: `outcomeOf` says with which result, and everything a step can do follows
from the two outcomes. -/

namespace Sys2Proof.Machine

/-- The result an instruction ends its DECODE with, whatever the state. -/
def outcomeOf : Instr → Except DecodeError Message
  | .short _ => .error .tooShort
  | .rcReq slave addr qty => .ok (addrQtyMessage slave .readCoils addr qty)
  | .rcRsp slave q payload => bitResponseDecode (frameOf slave .readCoils (q :: payload)) slave .readCoils
  | .rdiReq slave addr qty => .ok (addrQtyMessage slave .readDiscreteInputs addr qty)
  | .rdiRsp slave q payload =>
    bitResponseDecode (frameOf slave .readDiscreteInputs (q :: payload)) slave .readDiscreteInputs
  | .rhrReq slave addr qty => .ok (addrQtyMessage slave .readHoldingRegisters addr qty)
  | .rhrRsp slave bc payload =>
    regResponseDecode (frameOf slave .readHoldingRegisters (bc :: payload)) slave .readHoldingRegisters
  | .rirReq slave addr qty => .ok (addrQtyMessage slave .readInputRegister addr qty)
  | .rirRsp slave bc payload =>
    regResponseDecode (frameOf slave .readInputRegister (bc :: payload)) slave .readInputRegister
  | .wsc slave body => addrValDecode (frameOf slave .writeSingleCoil body) slave .writeSingleCoil
  | .wsr slave body => addrValDecode (frameOf slave .writeSingleRegister body) slave .writeSingleRegister
  | .res slave status _ => .ok (status8Message slave .slReadExceptionStatus status)
  | .diag slave body => diagDecode (frameOf slave .slDiagnostics body) slave .slDiagnostics
  | .wmc slave body => addrQtyWriteDecode (frameOf slave .writeMultipleCoils body) slave .writeMultipleCoils
  | .wmr slave body => addrQtyWriteDecode (frameOf slave .writeMultipleRegisters body) slave .writeMultipleRegisters
  | .excRc slave code _ => .ok (excMessage slave .readCoils code)
  | .excRdi slave code _ => .ok (excMessage slave .readDiscreteInputs code)
  | .excRhr slave code _ => .ok (excMessage slave .readHoldingRegisters code)
  | .excRir slave code _ => .ok (excMessage slave .readInputRegister code)
  | .excWsc slave code _ => .ok (excMessage slave .writeSingleCoil code)
  | .excWsr slave code _ => .ok (excMessage slave .writeSingleRegister code)
  | .excRes slave code _ => .ok (excMessage slave .slReadExceptionStatus code)
  | .excDiag slave code _ => .ok (excMessage slave .slDiagnostics code)
  | .excWmc slave code _ => .ok (excMessage slave .writeMultipleCoils code)
  | .excWmr slave code _ => .ok (excMessage slave .writeMultipleRegisters code)
  | .illegal _ _ _ => .error .undefinedFunctionCode

/-- Every arm of exec is the end of a DECODE with the instruction's own result. -/
theorem exec_eq_finish (i : Instr) (s : State) : exec i s = s.finish (outcomeOf i) := by cases i <;> rfl

/-- All that an instruction can do. -/
theorem exec_cases {i : Instr} {s t : State} (h : exec i s = .next t) :
    (∃ m, outcomeOf i = .ok m ∧ t = s.succeed m) ∨ ∃ e, outcomeOf i = .error e ∧ t = s.raise e :=
  State.finish_cases (exec_eq_finish i s ▸ h)

/-- A run goes through the next state of its first step. -/
theorem run_succ_of_next (M : Host.Core) {s t : M.State} (h : M.step s = .next t) (k : Nat) :
    M.run (k + 1) s = M.run k t := by rw [Host.Core.run, h]

theorem step_eq_finish (s : State) : step s = s.finish (outcomeOf (decode s.frame)) := exec_eq_finish _ s

end Sys2Proof.Machine
end

