-- ==== Sys2Proof/Laws/Frame.lean ====
section
/-! SUPPORT. BUF by offset, the first bytes of a presented frame, and the unpacked values as the statements write them. -/

namespace Sys2Proof.Machine

/-- The byte at an offset of the frame. -/
@[simp] theorem State.getElem_frame {s : State} {off : Nat} (h : off < s.frame.length) : s.frame[off] = s.byte off := by
  simp [State.frame, State.byte]

theorem State.getD_frame {s : State} {off : Nat} (h : off < s.len) : s.frame.getD off 0x00#8 = s.byte off := by
  simp [h]

/-- The first three bytes of a frame that has them. -/
theorem State.frame_long {s : State} (h : 3 ≤ s.len) :
    s.frame = s.byte 0 :: s.byte 1 :: s.byte 2 :: s.frame.drop 3 := by
  apply List.ext_getElem?
  intro off
  match off with
  | 0 => simp [show 0 < s.len by omega]
  | 1 => simp [show 1 < s.len by omega]
  | 2 => simp [show 2 < s.len by omega]
  | n + 3 => simp [Nat.add_comm 3 n]

/-- A frame of six bytes. -/
theorem State.frame_six {s : State} (h : s.len = 6) :
    s.frame = [s.byte 0, s.byte 1, s.byte 2, s.byte 3, s.byte 4, s.byte 5] := by
  simp [State.frame, h, State.byte, List.range_succ]

/-- The step on a frame of at least three bytes. -/
theorem step_long {s : State} (h : 3 ≤ s.len) :
    step s = s.finish (outcomeOf (decodeLong (s.byte 0) (s.byte 1) (s.byte 2) (s.frame.drop 3))) := by
  rw [step_eq_finish]
  conv_lhs => rw [State.frame_long h, decode_long]

/-- The step on a shorter frame. -/
theorem step_short {s : State} (h : s.len < 3) : step s = .next (s.raise .tooShort) := by
  rw [step_eq_finish, decode_of_length_lt (by simpa using h)]
  rfl

/-- The failure outcome is the row "failure" of Table R34. -/
theorem State.raise_eq_afterFailure (s : State) (e : DecodeError) :
    s.raise e = s.afterFailure (failureStatus e) := rfl

theorem pairOf_eq_be16 (hi lo : Byte) : pairOf hi lo = be16 hi lo := rfl

theorem zext16_byte (b : Byte) : zext16 b = BitVec.ofNat 16 b.toNat := by
  apply BitVec.eq_of_toNat_eq
  simp [zext16]

/-- A lane of the bit unpacker, as a bit test. -/
theorem zext16_bitOf (b : Byte) (k : Nat) :
    zext16 (bitOf b k) = if b.getLsbD k then 0x0001#16 else 0x0000#16 := by
  have h : bitOf b k = if b.getLsbD k then 0x01#8 else 0x00#8 := by
    apply BitVec.eq_of_getLsbD_eq
    intro i hi
    by_cases h0 : i = 0
    · subst h0; cases hb : b.getLsbD k <;> simp [bitOf, hb]
    · rcases i with _ | i
      · exact absurd rfl h0
      · cases hb : b.getLsbD k <;> simp [bitOf]
  rw [h]
  split <;> rfl

theorem fillValues_singleton (v : Word) : fillValues [v] = oneVal v := by
  ext i h
  rcases i with _ | i <;> simp [fillValues, oneVal]

theorem fillValues_pair (v w : Word) : fillValues [v, w] = twoVal v w := by
  ext i h
  rcases i with _ | _ | i <;> simp [fillValues, twoVal]

/-- The first `n` slots filled by a function. -/
theorem fillValues_range (f : Nat → Word) (n : Nat) :
    fillValues ((List.range n).map f) = Vector.ofFn fun i => if i.val < n then f i.val else 0x0000#16 := by
  ext i h
  by_cases hi : i < n <;> simp [fillValues, hi]

/-- The lanes of the bit unpacker fill VAL as `bitsVal` says. -/
theorem fillValues_bits (byteAt : Nat → Byte) (q : Nat) :
    fillValues ((List.range q).map fun i => zext16 (bitOf (byteAt (3 + i / 8)) (i % 8))) = bitsVal byteAt q := by
  ext1 i h
  by_cases hi : i < q <;> simp [fillValues, bitsVal, hi, zext16_bitOf]

/-- The values of the register unpacker fill VAL as `regsVal` says. -/
theorem fillValues_regs (byteAt : Nat → Byte) (n : Nat) :
    fillValues ((List.range n).map fun k => be16 (byteAt (3 + 2 * k)) (byteAt (3 + 2 * k + 1))) =
      regsVal byteAt n := by
  ext1 i h
  by_cases hi : i < n <;> simp [fillValues, regsVal, hi, pairOf_eq_be16]

/-- `bitsVal` looks at the declared bits only. -/
theorem bitsVal_congr {f g : Nat → Byte} {q : Nat}
    (h : ∀ i < q, (f (3 + i / 8)).getLsbD (i % 8) = (g (3 + i / 8)).getLsbD (i % 8)) : bitsVal f q = bitsVal g q := by
  ext1 i hi
  by_cases hq : i < q
  · simp [bitsVal, hq, h i hq]
  · simp [bitsVal, hq]

/-- `regsVal` looks at the bytes of its `n` pairs only. -/
theorem regsVal_congr {f g : Nat → Byte} {n : Nat} (h : ∀ off < 3 + 2 * n, 3 ≤ off → f off = g off) :
    regsVal f n = regsVal g n := by
  ext1 i hi
  by_cases hq : i < n
  · simp [regsVal, hq, h (3 + 2 * i) (by omega) (by omega), h (3 + 2 * i + 1) (by omega) (by omega)]
  · simp [regsVal, hq]

/-- The exception flag of byte 1 as a bit. -/
theorem exceptionFlag_eq (rawFn : Byte) : exceptionFlag rawFn = rawFn.getLsbD 7 := by
  revert rawFn; decide

end Sys2Proof.Machine
end

