-- ==== Sys2Proof/Laws/PerInstr.lean ====
section
/-! SUPPORT. Per-instruction facts about the encoder: the frame of a well-formed instruction matches the instruction's own
row of spec/opcode_table.json, byte 1 under the row's mask and the row's condition on the length (spec 30_encoding R93). -/

namespace Sys2Proof.Laws.RowMatch

/-- The row of opcode_table.json: mask, match, and the condition on len. -/
def row : Instr → Byte × Byte × (Nat → Prop)
  | .short _ => (0x00#8, 0x00#8, fun len => len < 3)
  | .rcReq _ _ _ => (0xFF#8, 0x01#8, fun len => len = 6)
  | .rcRsp _ _ _ => (0xFF#8, 0x01#8, fun len => 3 ≤ len ∧ len ≠ 6)
  | .rdiReq _ _ _ => (0xFF#8, 0x02#8, fun len => len = 6)
  | .rdiRsp _ _ _ => (0xFF#8, 0x02#8, fun len => 3 ≤ len ∧ len ≠ 6)
  | .rhrReq _ _ _ => (0xFF#8, 0x03#8, fun len => len = 6)
  | .rhrRsp _ _ _ => (0xFF#8, 0x03#8, fun len => 3 ≤ len ∧ len ≠ 6)
  | .rirReq _ _ _ => (0xFF#8, 0x04#8, fun len => len = 6)
  | .rirRsp _ _ _ => (0xFF#8, 0x04#8, fun len => 3 ≤ len ∧ len ≠ 6)
  | .wsc _ _ => (0xFF#8, 0x05#8, fun len => 3 ≤ len)
  | .wsr _ _ => (0xFF#8, 0x06#8, fun len => 3 ≤ len)
  | .res _ _ _ => (0xFF#8, 0x07#8, fun len => 3 ≤ len)
  | .diag _ _ => (0xFF#8, 0x08#8, fun len => 3 ≤ len)
  | .wmc _ _ => (0xFF#8, 0x0F#8, fun len => 3 ≤ len)
  | .wmr _ _ => (0xFF#8, 0x10#8, fun len => 3 ≤ len)
  | .excRc _ _ _ => (0xFF#8, 0x81#8, fun len => 3 ≤ len)
  | .excRdi _ _ _ => (0xFF#8, 0x82#8, fun len => 3 ≤ len)
  | .excRhr _ _ _ => (0xFF#8, 0x83#8, fun len => 3 ≤ len)
  | .excRir _ _ _ => (0xFF#8, 0x84#8, fun len => 3 ≤ len)
  | .excWsc _ _ _ => (0xFF#8, 0x85#8, fun len => 3 ≤ len)
  | .excWsr _ _ _ => (0xFF#8, 0x86#8, fun len => 3 ≤ len)
  | .excRes _ _ _ => (0xFF#8, 0x87#8, fun len => 3 ≤ len)
  | .excDiag _ _ _ => (0xFF#8, 0x88#8, fun len => 3 ≤ len)
  | .excWmc _ _ _ => (0xFF#8, 0x8F#8, fun len => 3 ≤ len)
  | .excWmr _ _ _ => (0xFF#8, 0x90#8, fun len => 3 ≤ len)
  | .illegal _ _ _ => (0x00#8, 0x00#8, fun len => 3 ≤ len)

/-- The frame of `i` matches the row of `i`. Byte 1 of a frame too short to have one counts as zero. -/
def Statement (i : Instr) : Prop :=
  WellFormed i →
    (encode i).getD 1 0x00#8 &&& (row i).1 = (row i).2.1 ∧ (row i).2.2 (encode i).length

theorem short (bytes : List Byte) : Statement (.short bytes) := by
  intro h
  simp only [WellFormed, wellFormed, Config.minLen, decide_eq_true_eq] at h
  exact ⟨by simp [row], h⟩

theorem rcReq (slave : Byte) (addr qty : Word) : Statement (.rcReq slave addr qty) :=
  fun _ => ⟨by simp [encode, encodeRequest, row], rfl⟩

theorem rcRsp (slave q : Byte) (payload : List Byte) : Statement (.rcRsp slave q payload) := by
  intro h
  simp only [WellFormed, wellFormed, Config.reqLen, bne_iff_ne] at h
  exact ⟨by simp [encode, row], by simp [encode, row]; omega⟩

theorem rdiReq (slave : Byte) (addr qty : Word) : Statement (.rdiReq slave addr qty) :=
  fun _ => ⟨by simp [encode, encodeRequest, row], rfl⟩

theorem rdiRsp (slave q : Byte) (payload : List Byte) : Statement (.rdiRsp slave q payload) := by
  intro h
  simp only [WellFormed, wellFormed, Config.reqLen, bne_iff_ne] at h
  exact ⟨by simp [encode, row], by simp [encode, row]; omega⟩

theorem rhrReq (slave : Byte) (addr qty : Word) : Statement (.rhrReq slave addr qty) :=
  fun _ => ⟨by simp [encode, encodeRequest, row], rfl⟩

theorem rhrRsp (slave bc : Byte) (payload : List Byte) : Statement (.rhrRsp slave bc payload) := by
  intro h
  simp only [WellFormed, wellFormed, Config.reqLen, bne_iff_ne] at h
  exact ⟨by simp [encode, row], by simp [encode, row]; omega⟩

theorem rirReq (slave : Byte) (addr qty : Word) : Statement (.rirReq slave addr qty) :=
  fun _ => ⟨by simp [encode, encodeRequest, row], rfl⟩

theorem rirRsp (slave bc : Byte) (payload : List Byte) : Statement (.rirRsp slave bc payload) := by
  intro h
  simp only [WellFormed, wellFormed, Config.reqLen, bne_iff_ne] at h
  exact ⟨by simp [encode, row], by simp [encode, row]; omega⟩

theorem wsc (slave : Byte) (body : List Byte) : Statement (.wsc slave body) := by
  intro h
  simp only [WellFormed, wellFormed, Config.minLen, decide_eq_true_eq] at h
  exact ⟨by simp [encode, row], h⟩

theorem wsr (slave : Byte) (body : List Byte) : Statement (.wsr slave body) := by
  intro h
  simp only [WellFormed, wellFormed, Config.minLen, decide_eq_true_eq] at h
  exact ⟨by simp [encode, row], h⟩

theorem res (slave status : Byte) (tail : List Byte) : Statement (.res slave status tail) :=
  fun _ => ⟨by simp [encode, row], by simp [encode, row]⟩

theorem diag (slave : Byte) (body : List Byte) : Statement (.diag slave body) := by
  intro h
  simp only [WellFormed, wellFormed, Config.minLen, decide_eq_true_eq] at h
  exact ⟨by simp [encode, row], h⟩

theorem wmc (slave : Byte) (body : List Byte) : Statement (.wmc slave body) := by
  intro h
  simp only [WellFormed, wellFormed, Config.minLen, decide_eq_true_eq] at h
  exact ⟨by simp [encode, row], h⟩

theorem wmr (slave : Byte) (body : List Byte) : Statement (.wmr slave body) := by
  intro h
  simp only [WellFormed, wellFormed, Config.minLen, decide_eq_true_eq] at h
  exact ⟨by simp [encode, row], h⟩

theorem excRc (slave code : Byte) (tail : List Byte) : Statement (.excRc slave code tail) :=
  fun _ => ⟨by simp [encode, row], by simp [encode, row]⟩

theorem excRdi (slave code : Byte) (tail : List Byte) : Statement (.excRdi slave code tail) :=
  fun _ => ⟨by simp [encode, row], by simp [encode, row]⟩

theorem excRhr (slave code : Byte) (tail : List Byte) : Statement (.excRhr slave code tail) :=
  fun _ => ⟨by simp [encode, row], by simp [encode, row]⟩

theorem excRir (slave code : Byte) (tail : List Byte) : Statement (.excRir slave code tail) :=
  fun _ => ⟨by simp [encode, row], by simp [encode, row]⟩

theorem excWsc (slave code : Byte) (tail : List Byte) : Statement (.excWsc slave code tail) :=
  fun _ => ⟨by simp [encode, row], by simp [encode, row]⟩

theorem excWsr (slave code : Byte) (tail : List Byte) : Statement (.excWsr slave code tail) :=
  fun _ => ⟨by simp [encode, row], by simp [encode, row]⟩

theorem excRes (slave code : Byte) (tail : List Byte) : Statement (.excRes slave code tail) :=
  fun _ => ⟨by simp [encode, row], by simp [encode, row]⟩

theorem excDiag (slave code : Byte) (tail : List Byte) : Statement (.excDiag slave code tail) :=
  fun _ => ⟨by simp [encode, row], by simp [encode, row]⟩

theorem excWmc (slave code : Byte) (tail : List Byte) : Statement (.excWmc slave code tail) :=
  fun _ => ⟨by simp [encode, row], by simp [encode, row]⟩

theorem excWmr (slave code : Byte) (tail : List Byte) : Statement (.excWmr slave code tail) :=
  fun _ => ⟨by simp [encode, row], by simp [encode, row]⟩

theorem illegal (slave rawFn : Byte) (body : List Byte) : Statement (.illegal slave rawFn body) := by
  intro h
  simp only [WellFormed, wellFormed, Config.minLen, Bool.and_eq_true, decide_eq_true_eq] at h
  exact ⟨by simp [row], h.2⟩

end Sys2Proof.Laws.RowMatch
end

