-- ==== Sys2Proof/Tests/Slice0.lean ====
section
/-! SUPPORT. Tests of the model and witnesses of the statements' hypotheses. Expected results are the vectors of spec
95_test_vectors (named V<n>, S<n> in the docstrings) or words written out from spec 30_encoding. -/

namespace Sys2Proof.Tests
open Sys2Proof.Machine

/-- A frame presented to the machine right after reset. -/
abbrev shown (bytes : List Byte) : State := State.reset.present bytes

/-- What `f` reads after one DECODE of that frame. -/
def after {α : Type} (f : State → α) (bytes : List Byte) : Option α :=
  match step (shown bytes) with
  | .next t => some (f t)
  | .fault _ => none
  | .refused _ => none

/-- STATUS, SHAPE, SLAVE, FC, ADDR, QTY. -/
def head (t : State) : Status × Shape × Byte × Byte × Word × Word := (t.status, t.shape, t.slave, t.fc, t.addr, t.qty)

/-- What the tests of counted values read. -/
structure Listing where
  status : Status
  shape : Shape
  fc : Byte
  bcnt : Byte
  nval : Byte
  values : List Word
deriving DecidableEq, Repr

/-- STATUS, SHAPE, FC, BCNT, NVAL and the values. -/
def listing (t : State) : Listing := ⟨t.status, t.shape, t.fc, t.bcnt, t.nval, t.values⟩

/-- SHAPE, SLAVE, FC, HASERR, ERRCODE, ERRUNK. -/
def excep (t : State) : Shape × Byte × Byte × Bool × Byte × Bool :=
  (t.shape, t.slave, t.fc, t.hasErr, t.errCode, t.errUnk)

/-- VALID, STATUS, SHAPE, SLAVE, FC. -/
def fail (t : State) : Bool × Status × Shape × Byte × Byte := (t.valid, t.status, t.shape, t.slave, t.fc)

/-! ### Ill-formed terms, one for each check of WellFormed -/

/-- Three bytes are not SHORT. -/
theorem test_wf_short_three_bytes : wellFormed (.short [0x00#8, 0x00#8, 0x00#8]) = false := by decide

/-- Two bytes are. -/
theorem test_wf_short_two_bytes : wellFormed (.short [0x00#8, 0x00#8]) = true := by decide

/-- Three payload bytes make six: a request. -/
theorem test_wf_rcRsp_six_bytes : wellFormed (.rcRsp 0x11#8 0x18#8 [0x00#8, 0x00#8, 0x00#8]) = false := by decide

/-- Three payload bytes make six: a request. -/
theorem test_wf_rdiRsp_six_bytes : wellFormed (.rdiRsp 0x11#8 0x18#8 [0x00#8, 0x00#8, 0x00#8]) = false := by decide

/-- Three payload bytes make six: a request. -/
theorem test_wf_rhrRsp_six_bytes : wellFormed (.rhrRsp 0x11#8 0x03#8 [0x00#8, 0x00#8, 0x00#8]) = false := by decide

/-- Three payload bytes make six: a request. -/
theorem test_wf_rirRsp_six_bytes : wellFormed (.rirRsp 0x11#8 0x03#8 [0x00#8, 0x00#8, 0x00#8]) = false := by decide

/-- No third byte. -/
theorem test_wf_wsc_two_bytes : wellFormed (.wsc 0x11#8 []) = false := by decide

/-- No third byte. -/
theorem test_wf_wsr_two_bytes : wellFormed (.wsr 0x11#8 []) = false := by decide

/-- No third byte. -/
theorem test_wf_diag_two_bytes : wellFormed (.diag 0x11#8 []) = false := by decide

/-- No third byte. -/
theorem test_wf_wmc_two_bytes : wellFormed (.wmc 0x11#8 []) = false := by decide

/-- No third byte. -/
theorem test_wf_wmr_two_bytes : wellFormed (.wmr 0x11#8 []) = false := by decide

/-- 0x81 is a legal byte 1. -/
theorem test_wf_illegal_legal_code : wellFormed (.illegal 0x11#8 0x81#8 [0x00#8]) = false := by decide

/-- No third byte. -/
theorem test_wf_illegal_two_bytes : wellFormed (.illegal 0x11#8 0x7F#8 []) = false := by decide

/-- 0x80 is none of the 20 (V15). -/
theorem test_wf_illegal_flagged_zero : wellFormed (.illegal 0x11#8 0x80#8 [0x01#8]) = true := by decide

/-! ### Decoding, one word written out for each constructor -/

/-- R102: two bytes, whatever they are. -/
theorem test_decode_short : decode [0x06#8, 0x81#8] =
    .short [0x06#8, 0x81#8] := by decide

/-- R73 with byte 1 = 01: address 0013, quantity 0025. -/
theorem test_decode_rcReq : decode [0x11#8, 0x01#8, 0x00#8, 0x13#8, 0x00#8, 0x25#8] =
    .rcReq 0x11#8 0x0013#16 0x0025#16 := by decide

/-- R74 with byte 1 = 01: five bits. -/
theorem test_decode_rcRsp : decode [0x06#8, 0x01#8, 0x05#8, 0x14#8] =
    .rcRsp 0x06#8 0x05#8 [0x14#8] := by decide

/-- R73 with byte 1 = 02. -/
theorem test_decode_rdiReq : decode [0x11#8, 0x02#8, 0x00#8, 0xC4#8, 0x00#8, 0x16#8] =
    .rdiReq 0x11#8 0x00C4#16 0x0016#16 := by decide

/-- R74 with byte 1 = 02. -/
theorem test_decode_rdiRsp : decode [0x11#8, 0x02#8, 0x0A#8, 0xAC#8, 0xDB#8] =
    .rdiRsp 0x11#8 0x0A#8 [0xAC#8, 0xDB#8] := by decide

/-- R73 with byte 1 = 03. -/
theorem test_decode_rhrReq : decode [0x11#8, 0x03#8, 0x00#8, 0x6B#8, 0x00#8, 0x03#8] =
    .rhrReq 0x11#8 0x006B#16 0x0003#16 := by decide

/-- R76 with byte 1 = 03, seven bytes. -/
theorem test_decode_rhrRsp : decode [0x11#8, 0x03#8, 0x04#8, 0x12#8, 0x34#8, 0x56#8, 0x78#8] =
    .rhrRsp 0x11#8 0x04#8 [0x12#8, 0x34#8, 0x56#8, 0x78#8] := by decide

/-- R73 with byte 1 = 04; the bytes of each pair in the order high, low. -/
theorem test_decode_rirReq : decode [0x11#8, 0x04#8, 0xAB#8, 0xCD#8, 0x12#8, 0x34#8] =
    .rirReq 0x11#8 0xABCD#16 0x1234#16 := by decide

/-- R76 with byte 1 = 04. -/
theorem test_decode_rirRsp : decode [0x11#8, 0x04#8, 0x02#8, 0x00#8, 0x0A#8] =
    .rirRsp 0x11#8 0x02#8 [0x00#8, 0x0A#8] := by decide

/-- R77 with byte 1 = 05. -/
theorem test_decode_wsc : decode [0x11#8, 0x05#8, 0x00#8, 0xAC#8, 0xFF#8, 0x00#8] =
    .wsc 0x11#8 [0x00#8, 0xAC#8, 0xFF#8, 0x00#8] := by decide

/-- R77 with byte 1 = 06. -/
theorem test_decode_wsr : decode [0x11#8, 0x06#8, 0x00#8, 0x01#8, 0x00#8, 0x03#8] =
    .wsr 0x11#8 [0x00#8, 0x01#8, 0x00#8, 0x03#8] := by decide

/-- R78 with byte 1 = 07: length six selects nothing. -/
theorem test_decode_res : decode [0x11#8, 0x07#8, 0x6D#8, 0x00#8, 0x00#8, 0x00#8] =
    .res 0x11#8 0x6D#8 [0x00#8, 0x00#8, 0x00#8] := by decide

/-- R79 with byte 1 = 08. -/
theorem test_decode_diag : decode [0x11#8, 0x08#8, 0x00#8, 0x00#8, 0xA5#8, 0x37#8] =
    .diag 0x11#8 [0x00#8, 0x00#8, 0xA5#8, 0x37#8] := by decide

/-- R73 with byte 1 = 0F. -/
theorem test_decode_wmc : decode [0x11#8, 0x0F#8, 0x00#8, 0x13#8, 0x00#8, 0x0A#8] =
    .wmc 0x11#8 [0x00#8, 0x13#8, 0x00#8, 0x0A#8] := by decide

/-- R73 with byte 1 = 10. -/
theorem test_decode_wmr : decode [0x11#8, 0x10#8, 0x00#8, 0x01#8, 0x00#8, 0x02#8] =
    .wmr 0x11#8 [0x00#8, 0x01#8, 0x00#8, 0x02#8] := by decide

/-- R72 with byte 1 = 81. -/
theorem test_decode_excRc : decode [0x11#8, 0x81#8, 0x02#8] =
    .excRc 0x11#8 0x02#8 [] := by decide

/-- R72 with byte 1 = 82. -/
theorem test_decode_excRdi : decode [0x11#8, 0x82#8, 0x01#8] =
    .excRdi 0x11#8 0x01#8 [] := by decide

/-- R72 with byte 1 = 83. -/
theorem test_decode_excRhr : decode [0x11#8, 0x83#8, 0x07#8] =
    .excRhr 0x11#8 0x07#8 [] := by decide

/-- R72 with byte 1 = 84. -/
theorem test_decode_excRir : decode [0x11#8, 0x84#8, 0x03#8] =
    .excRir 0x11#8 0x03#8 [] := by decide

/-- R72 with byte 1 = 85. -/
theorem test_decode_excWsc : decode [0x11#8, 0x85#8, 0x04#8] =
    .excWsc 0x11#8 0x04#8 [] := by decide

/-- R72 with byte 1 = 86. -/
theorem test_decode_excWsr : decode [0x11#8, 0x86#8, 0x05#8] =
    .excWsr 0x11#8 0x05#8 [] := by decide

/-- R72 with byte 1 = 87. -/
theorem test_decode_excRes : decode [0x11#8, 0x87#8, 0x06#8] =
    .excRes 0x11#8 0x06#8 [] := by decide

/-- R72 with byte 1 = 88. -/
theorem test_decode_excDiag : decode [0x11#8, 0x88#8, 0x08#8] =
    .excDiag 0x11#8 0x08#8 [] := by decide

/-- R72 with byte 1 = 8F. -/
theorem test_decode_excWmc : decode [0x11#8, 0x8F#8, 0x0A#8] =
    .excWmc 0x11#8 0x0A#8 [] := by decide

/-- R72 with byte 1 = 90. -/
theorem test_decode_excWmr : decode [0x11#8, 0x90#8, 0x0B#8] =
    .excWmr 0x11#8 0x0B#8 [] := by decide

/-- R81: 7F is the last value before the flagged ones. -/
theorem test_decode_illegal : decode [0x06#8, 0x7F#8, 0x00#8] =
    .illegal 0x06#8 0x7F#8 [0x00#8] := by decide

/-- R81: 91 is the first value above the flagged ones. -/
theorem test_decode_illegal_91 : decode [0x11#8, 0x91#8, 0x01#8] =
    .illegal 0x11#8 0x91#8 [0x01#8] := by decide

/-- The opcode table's numbering: the row's match is byte 1 (R93). -/
theorem test_tableWord_excWmr : decodeTableWord 8 0x90 =
    some (.excWmr 0x00#8 0x00#8 [0x00#8, 0x00#8, 0x00#8]) := by decide

/-- A row of code 03 with no more bits is the six-byte request (notes/assumptions/8.md). -/
theorem test_tableWord_rhrReq : decodeTableWord 8 0x03 = some (.rhrReq 0x00#8 0x0000#16 0x0000#16) := by decide

/-! ### One DECODE -/

/-- V1. -/
theorem test_short_empty : after fail [] =
    some (true, .tooShort, .none, 0x00#8, 0x00#8) := by decide +kernel

/-- V4: an unrecognised code in two bytes. -/
theorem test_short_wins : after fail [0x06#8, 0x7F#8] =
    some (true, .tooShort, .none, 0x00#8, 0x00#8) := by decide +kernel

/-- V7 (S5). -/
theorem test_illegal_7F : after fail [0x06#8, 0x7F#8, 0x00#8] =
    some (true, .undefinedFc, .none, 0x00#8, 0x00#8) := by decide +kernel

/-- V15: flag set, code 00. -/
theorem test_illegal_masked_zero : after fail [0x11#8, 0x80#8, 0x01#8] =
    some (true, .undefinedFc, .none, 0x00#8, 0x00#8) := by decide +kernel

/-- V35. -/
theorem test_rcReq_pairs : after head [0x11#8, 0x01#8, 0x00#8, 0x13#8, 0x00#8, 0x25#8] =
    some (.ok, .addrQty, 0x11#8, 0x01#8, 0x0013#16, 0x0025#16) := by decide +kernel

/-- V49: built as a response, decoded as a request. -/
theorem test_rcReq_six_bytes : after head [0x06#8, 0x01#8, 0x10#8, 0xFF#8, 0xFF#8, 0x00#8] =
    some (.ok, .addrQty, 0x06#8, 0x01#8, 0x10FF#16, 0xFF00#16) := by decide +kernel

/-- V48. -/
theorem test_rdiReq_six_bytes : after head [0x11#8, 0x02#8, 0x16#8, 0xAC#8, 0xDB#8, 0x35#8] =
    some (.ok, .addrQty, 0x11#8, 0x02#8, 0x16AC#16, 0xDB35#16) := by decide +kernel

/-- V62: never TruncatedPayload. -/
theorem test_rhrReq_six_bytes : after head [0x11#8, 0x03#8, 0x04#8, 0x12#8, 0x34#8, 0x56#8] =
    some (.ok, .addrQty, 0x11#8, 0x03#8, 0x0412#16, 0x3456#16) := by decide +kernel

/-- V54. -/
theorem test_rirReq_pairs : after head [0x11#8, 0x04#8, 0x00#8, 0x08#8, 0x00#8, 0x01#8] =
    some (.ok, .addrQty, 0x11#8, 0x04#8, 0x0008#16, 0x0001#16) := by decide +kernel

/-- V37 (S2): 0x14 is 0001 0100, bit 0 first. -/
theorem test_rcRsp_five_bits : after listing [0x06#8, 0x01#8, 0x05#8, 0x14#8] =
    some ⟨.ok, .bits, 0x01#8, 0x05#8, 0x05#8,
      [0x0000#16, 0x0000#16, 0x0001#16, 0x0000#16, 0x0001#16]⟩ := by decide +kernel

/-- V47: across a byte boundary. -/
theorem test_rdiRsp_ten_bits : after listing [0x11#8, 0x02#8, 0x0A#8, 0xAC#8, 0xDB#8] =
    some ⟨.ok, .bits, 0x02#8, 0x0A#8, 0x0A#8,
      [0x0000#16, 0x0000#16, 0x0001#16, 0x0001#16, 0x0000#16, 0x0001#16, 0x0000#16, 0x0001#16, 0x0001#16, 0x0001#16]⟩ := by decide +kernel

/-- V39 for code 02 (R143 as R141; S7). -/
theorem test_rdiRsp_nine_bits_in_one_byte : after fail [0x06#8, 0x02#8, 0x09#8, 0x14#8] =
    some (true, .truncated, .none, 0x00#8, 0x00#8) := by decide +kernel

/-- V55. -/
theorem test_rhrRsp_three_registers : after listing [0x11#8, 0x03#8, 0x06#8, 0x02#8, 0x2B#8, 0x00#8, 0x00#8, 0x00#8, 0x64#8] =
    some ⟨.ok, .regs, 0x03#8, 0x06#8, 0x03#8,
      [0x022B#16, 0x0000#16, 0x0064#16]⟩ := by decide +kernel

/-- V64. -/
theorem test_rhrRsp_cut_short : after fail [0x11#8, 0x03#8, 0x06#8, 0x02#8, 0x2B#8, 0x00#8, 0x00#8] =
    some (true, .truncated, .none, 0x00#8, 0x00#8) := by decide +kernel

/-- V60 for code 04 (R163 as R161): the third byte is present and unused. -/
theorem test_rirRsp_odd_count : after listing [0x11#8, 0x04#8, 0x03#8, 0x12#8, 0x34#8, 0x56#8, 0x78#8] =
    some ⟨.ok, .regs, 0x04#8, 0x03#8, 0x01#8,
      [0x1234#16]⟩ := by decide +kernel

/-- V68: any value, a trailing byte. -/
theorem test_wsc_value : after listing [0x11#8, 0x05#8, 0x00#8, 0xAC#8, 0x12#8, 0x34#8, 0x99#8] =
    some ⟨.ok, .addrVal, 0x05#8, 0x00#8, 0x01#8,
      [0x1234#16]⟩ := by decide +kernel

/-- V69. -/
theorem test_wsc_five_bytes : after fail [0x11#8, 0x05#8, 0x00#8, 0xAC#8, 0xFF#8] =
    some (true, .truncated, .none, 0x00#8, 0x00#8) := by decide +kernel

/-- V70. -/
theorem test_wsr_value : after listing [0x11#8, 0x06#8, 0x00#8, 0x01#8, 0x00#8, 0x03#8] =
    some ⟨.ok, .addrVal, 0x06#8, 0x00#8, 0x01#8,
      [0x0003#16]⟩ := by decide +kernel

/-- V70: ADDR, and QTY stays 0. -/
theorem test_wsr_address : after head [0x11#8, 0x06#8, 0x00#8, 0x01#8, 0x00#8, 0x03#8] =
    some (.ok, .addrVal, 0x11#8, 0x06#8, 0x0001#16, 0x0000#16) := by decide +kernel

/-- V73: byte count and data ignored. -/
theorem test_wmc_request : after head [0x11#8, 0x0F#8, 0x00#8, 0x13#8, 0x00#8, 0x0A#8, 0x02#8, 0xCD#8, 0x01#8] =
    some (.ok, .addrQty, 0x11#8, 0x0F#8, 0x0013#16, 0x000A#16) := by decide +kernel

/-- V74. -/
theorem test_wmr_response : after head [0x11#8, 0x10#8, 0x00#8, 0x01#8, 0x00#8, 0x02#8] =
    some (.ok, .addrQty, 0x11#8, 0x10#8, 0x0001#16, 0x0002#16) := by decide +kernel

/-- V76. -/
theorem test_wmr_five_bytes : after fail [0x11#8, 0x10#8, 0x00#8, 0x01#8, 0x00#8] =
    some (true, .truncated, .none, 0x00#8, 0x00#8) := by decide +kernel

/-- V77. -/
theorem test_res_status : after listing [0x11#8, 0x07#8, 0x6D#8] =
    some ⟨.ok, .status8, 0x07#8, 0x00#8, 0x01#8,
      [0x006D#16]⟩ := by decide +kernel

/-- V80. -/
theorem test_diag_words : after listing [0x11#8, 0x08#8, 0x00#8, 0x00#8, 0xA5#8, 0x37#8] =
    some ⟨.ok, .diag, 0x08#8, 0x00#8, 0x02#8,
      [0x0000#16, 0xA537#16]⟩ := by decide +kernel

/-- V81. -/
theorem test_diag_five_bytes : after fail [0x11#8, 0x08#8, 0x00#8, 0x00#8, 0xA5#8] =
    some (true, .truncated, .none, 0x00#8, 0x00#8) := by decide +kernel

/-- V20. -/
theorem test_excRc_trailing : after excep [0x06#8, 0x81#8, 0x02#8, 0xDE#8, 0xAD#8] =
    some (.exc, 0x06#8, 0x01#8, true, 0x02#8, false) := by decide +kernel

/-- V34: the flag is tested before the length. -/
theorem test_excRc_six_bytes : after excep [0x00#8, 0x81#8, 0x02#8, 0x00#8, 0x00#8, 0x00#8] =
    some (.exc, 0x00#8, 0x01#8, true, 0x02#8, false) := by decide +kernel

/-- V21. -/
theorem test_excRdi : after excep [0x11#8, 0x82#8, 0x01#8] =
    some (.exc, 0x11#8, 0x02#8, true, 0x01#8, false) := by decide +kernel

/-- V22: NoError is known, HASERR stays 1. -/
theorem test_excRhr_no_error : after excep [0x11#8, 0x83#8, 0x00#8] =
    some (.exc, 0x11#8, 0x03#8, true, 0x00#8, false) := by decide +kernel

/-- V31. -/
theorem test_excRhr_unknown : after excep [0x11#8, 0x83#8, 0x09#8] =
    some (.exc, 0x11#8, 0x03#8, true, 0x09#8, true) := by decide +kernel

/-- V23. -/
theorem test_excRir : after excep [0x11#8, 0x84#8, 0x03#8] =
    some (.exc, 0x11#8, 0x04#8, true, 0x03#8, false) := by decide +kernel

/-- V24. -/
theorem test_excWsc : after excep [0x11#8, 0x85#8, 0x04#8] =
    some (.exc, 0x11#8, 0x05#8, true, 0x04#8, false) := by decide +kernel

/-- V25. -/
theorem test_excWsr : after excep [0x11#8, 0x86#8, 0x05#8] =
    some (.exc, 0x11#8, 0x06#8, true, 0x05#8, false) := by decide +kernel

/-- V26. -/
theorem test_excRes : after excep [0x11#8, 0x87#8, 0x06#8] =
    some (.exc, 0x11#8, 0x07#8, true, 0x06#8, false) := by decide +kernel

/-- V27. -/
theorem test_excDiag : after excep [0x11#8, 0x88#8, 0x08#8] =
    some (.exc, 0x11#8, 0x08#8, true, 0x08#8, false) := by decide +kernel

/-- V28. -/
theorem test_excWmc : after excep [0x11#8, 0x8F#8, 0x0A#8] =
    some (.exc, 0x11#8, 0x0F#8, true, 0x0A#8, false) := by decide +kernel

/-- V29. -/
theorem test_excWmr : after excep [0x11#8, 0x90#8, 0x0B#8] =
    some (.exc, 0x11#8, 0x10#8, true, 0x0B#8, false) := by decide +kernel

/-- V51: 255 bits in 32 bytes. -/
theorem test_rcRsp_all_slots :
    after (fun t => (t.status, t.nval, t.values)) (0x06#8 :: 0x01#8 :: 0xFF#8 :: List.replicate 32 0xFF#8) =
      some (.ok, 0xFF#8, List.replicate 255 0x0001#16) := by decide +kernel

/-- V66: byte count 254. -/
theorem test_rirRsp_all_slots :
    after (fun t => (t.status, t.nval, t.values)) (0x11#8 :: 0x04#8 :: 0xFE#8 :: List.replicate 254 0x01#8) =
      some (.ok, 0x7F#8, List.replicate 127 0x0101#16) := by decide +kernel

/-- The first step from reset with nothing placed decodes the empty frame (notes/assumptions/14.md). -/
theorem test_reset_first_step : (match step State.reset with
    | .next t => some (t.valid, t.status)
    | .fault _ => none
    | .refused _ => none) = some (true, .tooShort) := by decide +kernel

/-! ### Witnesses: the hypotheses of each statement are met, each clause at a boundary -/

/-- A state with registers left by an earlier DECODE: an exception response to ReadCoils, then another frame shown. -/
abbrev dirty (bytes : List Byte) : State := (State.reset.afterException 0x06#8 0x01#8 0x02#8).present bytes

theorem witness_CheckedByteRead : 2 < (shown [0x11#8, 0x07#8, 0x6D#8]).len ∧
    (shown [0x11#8, 0x07#8, 0x6D#8]).len ≤ 3 ∧ 3 ≤ (shown [0x11#8, 0x07#8, 0x6D#8]).len := by decide

theorem witness_CheckedPairRead : 1 + 1 < (shown [0x11#8, 0x07#8, 0x6D#8]).len ∧
    (shown [0x11#8, 0x07#8, 0x6D#8]).len ≤ 2 + 1 := by decide

theorem witness_CanonicalMemoryUnique : ∃ m n : Memory, m ≠ [] ∧ Memory.wf m ∧ Memory.wf n ∧
    ∀ off, Memory.read m off = Memory.read n off :=
  ⟨[(1, 0x01#8), (3, 0x14#8)], [(1, 0x01#8), (3, 0x14#8)], by decide, by decide, by decide, fun _ => rfl⟩

theorem witness_OverwriteSeenByNextFrame : Memory.wf (shown [0x06#8, 0x01#8, 0x05#8]).mem ∧
    2 < (shown [0x06#8, 0x01#8, 0x05#8]).len ∧ (shown [0x06#8, 0x01#8, 0x05#8]).len ≤ 3 := by decide

theorem witness_DecodeOfEncode : WellFormed (.rcRsp 0x06#8 0xFF#8 (List.replicate 32 0xFF#8)) := by decide

theorem witness_StepRunsPresentedInstruction : WellFormed (.rcRsp 0x06#8 0x05#8 [0x14#8]) ∧
    (shown [0x06#8, 0x01#8, 0x05#8, 0x14#8]).frame = encode (.rcRsp 0x06#8 0x05#8 [0x14#8]) := by decide

theorem witness_TableWordIsWhatStepRuns :
    decodeTableWord 8 0x81 = some (.excRc 0x00#8 0x00#8 [0x00#8, 0x00#8, 0x00#8]) := by decide

theorem witness_FunctionCodeMap : 0x10#8 ∈ recognisedNumbers ∧ 0x11#8 ∉ recognisedNumbers ∧
    0x00#8 ∉ recognisedNumbers ∧ 3 ≤ (shown [0x11#8, 0x80#8, 0x01#8]).len := by decide

theorem witness_ExceptionCodeMap : 0x0B#8 ∈ knownErrorNumbers ∧ 0x0C#8 ∉ knownErrorNumbers := by decide

theorem witness_ShortFrameFails : (shown [0xFF#8, 0xFF#8]).len < 3 ∧ 3 ≤ (shown [0x06#8, 0x7F#8, 0x00#8]).len := by
  decide

theorem witness_IllegalFrameFails : 3 ≤ (shown [0x11#8, 0x0E#8, 0x00#8]).len ∧
    (shown [0x11#8, 0x0E#8, 0x00#8]).byte 1 ∉ legalCodes := by decide

theorem witness_ReadRequestResult : 0x04#8 ∈ [0x01#8, 0x02#8, 0x03#8, 0x04#8] ∧
    (shown [0x11#8, 0x04#8, 0x00#8, 0x08#8, 0x00#8, 0x01#8]).len = 6 ∧
    (shown [0x11#8, 0x04#8, 0x00#8, 0x08#8, 0x00#8, 0x01#8]).byte 1 = 0x04#8 := by decide

/-- V38 fits exactly. -/
theorem witness_BitResponseResult_fits :
    let s := shown [0x06#8, 0x01#8, 0x08#8, 0x14#8]
    0x01#8 ∈ [0x01#8, 0x02#8] ∧ 3 ≤ s.len ∧ s.len ≠ 6 ∧ s.byte 1 = 0x01#8 ∧
      ((s.byte 2).toNat + 7) / 8 ≤ s.len - 3 := by decide

/-- V39 lacks one byte. -/
theorem witness_BitResponseResult_truncated :
    let s := shown [0x06#8, 0x01#8, 0x09#8, 0x14#8]
    0x01#8 ∈ [0x01#8, 0x02#8] ∧ 3 ≤ s.len ∧ s.len ≠ 6 ∧ s.byte 1 = 0x01#8 ∧
      s.len - 3 < ((s.byte 2).toNat + 7) / 8 := by decide

/-- V56 fits exactly. -/
theorem witness_RegisterResponseResult_fits :
    let s := shown [0x11#8, 0x04#8, 0x02#8, 0x00#8, 0x0A#8]
    0x04#8 ∈ [0x03#8, 0x04#8] ∧ 3 ≤ s.len ∧ s.len ≠ 6 ∧ s.byte 1 = 0x04#8 ∧ 3 + (s.byte 2).toNat ≤ s.len := by decide

/-- V58 lacks one byte. -/
theorem witness_RegisterResponseResult_truncated :
    let s := shown [0x11#8, 0x03#8, 0x01#8]
    0x03#8 ∈ [0x03#8, 0x04#8] ∧ 3 ≤ s.len ∧ s.len ≠ 6 ∧ s.byte 1 = 0x03#8 ∧ s.len < 3 + (s.byte 2).toNat := by decide

/-- V67, V74 and V76. -/
theorem witness_WriteFrameResult :
    let a := shown [0x11#8, 0x05#8, 0x00#8, 0xAC#8, 0xFF#8, 0x00#8]
    let b := shown [0x11#8, 0x10#8, 0x00#8, 0x01#8, 0x00#8, 0x02#8]
    let c := shown [0x11#8, 0x10#8, 0x00#8, 0x01#8, 0x00#8]
    (a.byte 1 = 0x05#8 ∧ 0x05#8 ∈ [0x05#8, 0x06#8] ∧ 6 ≤ a.len) ∧
    (b.byte 1 = 0x10#8 ∧ 0x10#8 ∈ [0x0F#8, 0x10#8] ∧ 6 ≤ b.len) ∧
    (c.byte 1 = 0x10#8 ∧ 0x10#8 ∈ [0x05#8, 0x06#8, 0x0F#8, 0x10#8] ∧ 3 ≤ c.len ∧ c.len < 6) := by decide

/-- V77, V80 and V81. -/
theorem witness_SerialLineResult :
    let a := shown [0x11#8, 0x07#8, 0x6D#8]
    let b := shown [0x11#8, 0x08#8, 0x00#8, 0x00#8, 0xA5#8, 0x37#8]
    let c := shown [0x11#8, 0x08#8, 0x00#8, 0x00#8, 0xA5#8]
    (a.byte 1 = 0x07#8 ∧ 3 ≤ a.len) ∧ (b.byte 1 = 0x08#8 ∧ 6 ≤ b.len) ∧
    (c.byte 1 = 0x08#8 ∧ 3 ≤ c.len ∧ c.len < 6) := by decide

/-- V29. -/
theorem witness_ExceptionResponseResult :
    let s := shown [0x11#8, 0x90#8, 0x0B#8]
    0x10#8 ∈ recognisedNumbers ∧ 3 ≤ s.len ∧ s.byte 1 = 0x10#8 ||| 0x80#8 := by decide

theorem witness_BitResponsesComplete : ((0xFF#8 : Byte).toNat + 7) / 8 ≤ (List.replicate 32 0xFF#8).length := by decide

theorem witness_RegisterResponsesComplete : (0x01#8 : Byte).toNat ≤ [0xAB#8].length := by decide

theorem witness_TruncatedInstructionsFail :
    [0x14#8].length < ((0x09#8 : Byte).toNat + 7) / 8 ∧ ([] : List Byte).length < (0x01#8 : Byte).toNat ∧
    [0x00#8, 0xAC#8, 0xFF#8].length < 4 := by decide

theorem witness_FrameBufferNeverWritten :
    ∃ t, exec (.rcRsp 0x06#8 0x05#8 [0x14#8]) (shown [0x06#8, 0x01#8, 0x05#8, 0x14#8]) = .next t := ⟨_, rfl⟩

theorem witness_ResultDependsOnFrameAlone :
    (shown [0x11#8, 0x07#8, 0x6D#8]).frame = (dirty [0x11#8, 0x07#8, 0x6D#8]).frame ∧
    (shown [0x11#8, 0x07#8, 0x6D#8]).valid ≠ (dirty [0x11#8, 0x07#8, 0x6D#8]).valid := by decide

theorem witness_FailureLeavesNoMessage :
    ∃ t, step (dirty [0x06#8, 0x01#8, 0x09#8, 0x14#8]) = .next t ∧ t.status ≠ .ok := ⟨_, rfl, by decide⟩

/-- A flagged frame at length six and an unflagged one. -/
theorem witness_ExceptionFlagDecidesPath :
    let a := shown [0x00#8, 0x81#8, 0x02#8, 0x00#8, 0x00#8, 0x00#8]
    let b := shown [0x06#8, 0x01#8, 0x09#8, 0x14#8]
    (3 ≤ a.len ∧ (a.byte 1).getLsbD 7 = true) ∧ (3 ≤ b.len ∧ (b.byte 1).getLsbD 7 = false) := by decide

/-- V30. -/
theorem witness_UnknownExceptionCodeDecodes :
    let s := shown [0x11#8, 0x83#8, 0x07#8]
    0x03#8 ∈ recognisedNumbers ∧ 3 ≤ s.len ∧ s.byte 1 = 0x03#8 ||| 0x80#8 ∧
      s.byte 2 ∉ [0x00#8, 0x01#8, 0x02#8, 0x03#8, 0x04#8, 0x05#8, 0x06#8, 0x08#8, 0x0A#8, 0x0B#8] := by decide

/-- V50 at five bytes and V49 at six. -/
theorem witness_LengthSixSelectsRequest :
    let a := shown [0x06#8, 0x01#8, 0x18#8, 0xFF#8, 0xFF#8]
    let b := shown [0x06#8, 0x01#8, 0x10#8, 0xFF#8, 0xFF#8, 0x00#8]
    (a.byte 1 ∈ [0x01#8, 0x02#8, 0x03#8, 0x04#8] ∧ 3 ≤ a.len ∧ a.len ≠ 6) ∧
    (b.byte 1 ∈ [0x01#8, 0x02#8, 0x03#8, 0x04#8] ∧ 3 ≤ b.len ∧ b.len = 6) := by decide

/-- V37 with a trailing byte, and V19 with three, six bytes in all. -/
theorem witness_TrailingBytesIgnored :
    (∃ t, step (State.reset.present [0x06#8, 0x01#8, 0x05#8, 0x14#8]) = .next t ∧ t.status = .ok ∧
      [0x06#8, 0x01#8, 0x05#8, 0x14#8].length ≠ 6 ∧
      ([0x06#8, 0x01#8, 0x05#8, 0x14#8] ++ [0xFF#8]).length ≠ 6) ∧
    (∃ t, step (State.reset.present [0x06#8, 0x81#8, 0x02#8]) = .next t ∧ t.status = .ok ∧
      [0x06#8, 0x81#8, 0x02#8].getD 1 0x00#8 ∉ [0x01#8, 0x02#8, 0x03#8, 0x04#8] ∧
      ([0x06#8, 0x81#8, 0x02#8] ++ [0xDE#8, 0xAD#8, 0x00#8]).length = 6) :=
  ⟨⟨_, rfl, rfl, by decide, by decide⟩, ⟨_, rfl, rfl, by decide, by decide⟩⟩

/-- Five bits of 0x14 and of 0xF4. -/
theorem witness_PaddingBitsIgnored :
    let s := shown [0x06#8, 0x01#8, 0x05#8, 0x14#8]
    let s' := dirty [0x06#8, 0x01#8, 0x05#8, 0xF4#8]
    s.byte 1 ∈ [0x01#8, 0x02#8] ∧ s.len ≠ 6 ∧ s'.len = s.len ∧ s'.byte 0 = s.byte 0 ∧ s'.byte 1 = s.byte 1 ∧
      s'.byte 2 = s.byte 2 ∧
      ∀ i < (s.byte 2).toNat, (s'.byte (3 + i / 8)).getLsbD (i % 8) = (s.byte (3 + i / 8)).getLsbD (i % 8) := by decide

/-- A state with a message in it and a frame shown meets the invariant, and its step answers a next state. -/
theorem witness_StepKeepsInvariant :
    (dirty [0x06#8, 0x01#8, 0x05#8, 0x14#8]).Inv ∧
      ∃ t, step (dirty [0x06#8, 0x01#8, 0x05#8, 0x14#8]) = .next t := by
  refine ⟨⟨?_, by decide, by decide⟩, _, rfl⟩
  constructor <;> (try unfold State.MessageUnset) <;> decide +kernel

theorem witness_HostKeepsInvariant : ∃ s : State, s.Inv := ⟨_, witness_StepKeepsInvariant.1⟩

end Sys2Proof.Tests
end

/-! ## The registers of a DECODE that depend on the first three bytes, and the host's writes to the frame (10_state) -/

namespace Sys2Proof

/-! ### The numbers of the function codes (30_encoding R75) -/

theorem FunctionCode.value_and_mask (fc : FunctionCode) : fc.value &&& 0x7F#8 = fc.value := by
  cases fc <;> rfl

theorem FunctionCode.value_getLsbD_seven (fc : FunctionCode) : fc.value.getLsbD 7 = false := by
  cases fc <;> rfl

theorem FunctionCode.value_mem_recognisedNumbers {fc : FunctionCode} (h : fc ≠ .undefined) :
    fc.value ∈ Machine.recognisedNumbers := by
  cases fc with
  | undefined => exact absurd rfl h
  | _ => decide

end Sys2Proof

namespace Sys2Proof.Machine

/-! ### What a result that may fail answers when it succeeds -/

/-- Every message that `r` answers satisfies `P`. A failure answers none. -/
def Yields (P : Message → Prop) (r : Except DecodeError Message) : Prop := ∀ m, r = .ok m → P m

theorem Yields.ok {P : Message → Prop} {m : Message} (h : P m) : Yields P (.ok m) :=
  fun _ hm => Except.ok.inj hm ▸ h

theorem Yields.error {P : Message → Prop} (e : DecodeError) : Yields P (.error e) := nofun

/-- What every continuation of a read yields, the sequence yields. -/
theorem Yields.bind {α : Type} {P : Message → Prop} {x : Except DecodeError α} {f : α → Except DecodeError Message}
    (h : ∀ a, Yields P (f a)) : Yields P (x >>= f) := by
  cases x with
  | ok a => exact h a
  | error e => exact .error e

theorem Yields.mono {P Q : Message → Prop} {r : Except DecodeError Message} (h : Yields P r) (hPQ : ∀ m, P m → Q m) :
    Yields Q r :=
  fun m hm => hPQ m (h m hm)

/-! ### Messages without the exception flag -/

/-- A message of function code `fc` that is no exception response. -/
structure Message.Plain (fc : FunctionCode) (m : Message) : Prop where
  fc_eq : m.fc = fc.value
  hasErr_eq : m.hasErr = false
  errCode_eq : m.errCode = 0x00#8

theorem addrQtyMessage_plain (slave : Byte) (fc : FunctionCode) (addr qty : Word) :
    (addrQtyMessage slave fc addr qty).Plain fc := ⟨rfl, rfl, rfl⟩

theorem status8Message_plain (slave : Byte) (fc : FunctionCode) (status : Byte) :
    (status8Message slave fc status).Plain fc := ⟨rfl, rfl, rfl⟩

theorem bitResponseDecode_plain (frame : List Byte) (slave : Byte) (fc : FunctionCode) :
    Yields (Message.Plain fc) (bitResponseDecode frame slave fc) :=
  .bind fun _ => .bind fun _ => .ok ⟨rfl, rfl, rfl⟩

theorem regResponseDecode_plain (frame : List Byte) (slave : Byte) (fc : FunctionCode) :
    Yields (Message.Plain fc) (regResponseDecode frame slave fc) :=
  .bind fun _ => .bind fun _ => .ok ⟨rfl, rfl, rfl⟩

theorem addrValDecode_plain (frame : List Byte) (slave : Byte) (fc : FunctionCode) :
    Yields (Message.Plain fc) (addrValDecode frame slave fc) :=
  .bind fun _ => .bind fun _ => .ok ⟨rfl, rfl, rfl⟩

theorem addrQtyWriteDecode_plain (frame : List Byte) (slave : Byte) (fc : FunctionCode) :
    Yields (Message.Plain fc) (addrQtyWriteDecode frame slave fc) :=
  .bind fun _ => .bind fun _ => .ok (addrQtyMessage_plain _ _ _ _)

theorem diagDecode_plain (frame : List Byte) (slave : Byte) (fc : FunctionCode) :
    Yields (Message.Plain fc) (diagDecode frame slave fc) :=
  .bind fun _ => .bind fun _ => .ok ⟨rfl, rfl, rfl⟩

/-- What both shapes of a read code yield, the shape that the length selects yields. -/
theorem Yields.decodeRead {P : Message → Prop} {req : Word → Word → Instr} {rsp : Byte → List Byte → Instr}
    (hreq : ∀ addr qty, Yields P (outcomeOf (req addr qty)))
    (hrsp : ∀ b2 rest, Yields P (outcomeOf (rsp b2 rest))) (b2 : Byte) (rest : List Byte) :
    Yields P (outcomeOf (decodeRead req rsp b2 rest)) := by
  rcases decodeRead_cases req rsp b2 rest with ⟨b3, b4, b5, -, h⟩ | ⟨-, h⟩
  · rw [h]; exact hreq _ _
  · rw [h]; exact hrsp _ _

/-! ### FC, HASERR and ERRCODE from bytes 1 and 2 -/

/-- FC, HASERR and ERRCODE of a message are what bytes 1 and 2 of its frame say (10_state R24, R25, R26). -/
structure Message.Header (rawFn b2 : Byte) (m : Message) : Prop where
  fc_eq : m.fc = rawFn &&& 0x7F#8
  fc_mem : m.fc ∈ recognisedNumbers
  hasErr_eq : m.hasErr = rawFn.getLsbD 7
  errCode_eq : m.errCode = if m.hasErr then b2 else 0x00#8

/-- ERRCODE is the exception code itself, known or unknown (41_exception_decode R122). -/
theorem errMap_fst (e : Byte) : (errMap e).1 = e := by
  simp only [errMap, errorCodeOf]
  split
  · next k h => exact eq_of_beq (List.find?_some (p := fun k : KnownError => k.value == e) h)
  · rfl

theorem Message.Plain.header {fc : FunctionCode} (hfc : fc ≠ .undefined) (b2 : Byte) {m : Message} (h : m.Plain fc) :
    m.Header fc.value b2 where
  fc_eq := by rw [h.fc_eq, fc.value_and_mask]
  fc_mem := h.fc_eq ▸ FunctionCode.value_mem_recognisedNumbers hfc
  hasErr_eq := by rw [h.hasErr_eq, fc.value_getLsbD_seven]
  errCode_eq := by simp [h.hasErr_eq, h.errCode_eq]

theorem excMessage_header {fc : FunctionCode} (hfc : fc ≠ .undefined) (slave b2 : Byte) :
    (excMessage slave fc b2).Header (fc.value ||| 0x80#8) b2 where
  fc_eq := by cases fc <;> rfl
  fc_mem := FunctionCode.value_mem_recognisedNumbers hfc
  hasErr_eq := by simp [excMessage]
  errCode_eq := by simp [excMessage, errMap_fst]

theorem Yields.header {fc : FunctionCode} (hfc : fc ≠ .undefined) {b2 : Byte} {r : Except DecodeError Message}
    (h : Yields (Message.Plain fc) r) : Yields (Message.Header fc.value b2) r :=
  h.mono fun _ => Message.Plain.header hfc b2

/-- Whatever a frame of at least three bytes decodes to, FC, HASERR and ERRCODE of its message are what bytes 1 and 2
say: by the rows of Table R80, one case a value of byte 1. -/
theorem outcomeOf_decodeLong_header (slave rawFn b2 : Byte) (rest : List Byte) :
    Yields (Message.Header rawFn b2) (outcomeOf (decodeLong slave rawFn b2 rest)) := by
  unfold decodeLong
  split
  · exact .header (fc := .readCoils) nofun
      (.decodeRead (fun _ _ => .ok (addrQtyMessage_plain _ _ _ _)) (fun _ _ => bitResponseDecode_plain _ _ _) b2 rest)
  · exact .header (fc := .readDiscreteInputs) nofun
      (.decodeRead (fun _ _ => .ok (addrQtyMessage_plain _ _ _ _)) (fun _ _ => bitResponseDecode_plain _ _ _) b2 rest)
  · exact .header (fc := .readHoldingRegisters) nofun
      (.decodeRead (fun _ _ => .ok (addrQtyMessage_plain _ _ _ _)) (fun _ _ => regResponseDecode_plain _ _ _) b2 rest)
  · exact .header (fc := .readInputRegister) nofun
      (.decodeRead (fun _ _ => .ok (addrQtyMessage_plain _ _ _ _)) (fun _ _ => regResponseDecode_plain _ _ _) b2 rest)
  · exact .header (fc := .writeSingleCoil) nofun (addrValDecode_plain _ _ _)
  · exact .header (fc := .writeSingleRegister) nofun (addrValDecode_plain _ _ _)
  · exact .header (fc := .slReadExceptionStatus) nofun (.ok (status8Message_plain _ _ _))
  · exact .header (fc := .slDiagnostics) nofun (diagDecode_plain _ _ _)
  · exact .header (fc := .writeMultipleCoils) nofun (addrQtyWriteDecode_plain _ _ _)
  · exact .header (fc := .writeMultipleRegisters) nofun (addrQtyWriteDecode_plain _ _ _)
  · exact .ok (excMessage_header (fc := .readCoils) nofun slave b2)
  · exact .ok (excMessage_header (fc := .readDiscreteInputs) nofun slave b2)
  · exact .ok (excMessage_header (fc := .readHoldingRegisters) nofun slave b2)
  · exact .ok (excMessage_header (fc := .readInputRegister) nofun slave b2)
  · exact .ok (excMessage_header (fc := .writeSingleCoil) nofun slave b2)
  · exact .ok (excMessage_header (fc := .writeSingleRegister) nofun slave b2)
  · exact .ok (excMessage_header (fc := .slReadExceptionStatus) nofun slave b2)
  · exact .ok (excMessage_header (fc := .slDiagnostics) nofun slave b2)
  · exact .ok (excMessage_header (fc := .writeMultipleCoils) nofun slave b2)
  · exact .ok (excMessage_header (fc := .writeMultipleRegisters) nofun slave b2)
  · exact .error .undefinedFunctionCode

/-! ### What a step does to the registers -/

@[simp] theorem failureStatus_ne_ok (e : DecodeError) : failureStatus e ≠ .ok := by cases e <;> nofun

/-- A step fails, or it succeeds with a message whose FC, HASERR and ERRCODE are what bytes 1 and 2 say. -/
theorem step_fails_or_succeeds_with_header (s : State) :
    (∃ e, step s = .next (s.raise e)) ∨
      ∃ m : Message, step s = .next (s.succeed m) ∧ m.Header (s.byte 1) (s.byte 2) := by
  by_cases h : 3 ≤ s.len
  · have hy := outcomeOf_decodeLong_header (s.byte 0) (s.byte 1) (s.byte 2) (s.frame.drop 3)
    rw [step_long h]
    cases hr : outcomeOf (decodeLong (s.byte 0) (s.byte 1) (s.byte 2) (s.frame.drop 3)) with
    | ok m => exact .inr ⟨m, State.finish_ok s m, hy m hr⟩
    | error e => exact .inl ⟨e, State.finish_error s e⟩
  · exact .inl ⟨.tooShort, step_short (by omega)⟩

/-- Settles O40: a failure zeroes FC, and a success takes it from byte 1 without bit 7. -/
theorem functionCodeRegister : Obligations.FunctionCodeRegister := by
  intro s
  rcases step_fails_or_succeeds_with_header s with ⟨e, hs⟩ | ⟨m, hs, hm⟩
  · exact ⟨_, hs, by simp, by simp, by simp⟩
  · have hbit : m.fc.getLsbD 7 = false := by simp [hm.fc_eq]
    exact ⟨_, hs, hbit, fun _ => ⟨hm.fc_eq, hm.fc_mem⟩, by simp⟩

/-- Settles O41: a failure clears HASERR and ERRCODE, and a success takes them from bit 7 of byte 1 and from byte 2. -/
theorem errorFlagAndCodeRegisters : Obligations.ErrorFlagAndCodeRegisters := by
  intro s
  rcases step_fails_or_succeeds_with_header s with ⟨e, hs⟩ | ⟨m, hs, hm⟩
  · exact ⟨_, hs, by simp, by simp, by simp⟩
  · have hset : m.hasErr = true → m.errCode = s.byte 2 := fun h => by simp [hm.errCode_eq, h]
    have hclear : m.hasErr = false → m.errCode = 0x00#8 := fun h => by simp [hm.errCode_eq, h]
    exact ⟨_, hs, fun _ => hm.hasErr_eq, fun h => ⟨rfl, hset h⟩, hclear⟩

/-! ### The host's writes to the frame -/

theorem State.present_sameRegisters (s : State) (bytes : List Byte) : (s.present bytes).SameRegisters s := by
  simp [State.SameRegisters]

theorem State.overwrite_sameRegisters (s : State) (off : Nat) (b : Byte) : (s.overwrite off b).SameRegisters s := by
  simp [State.SameRegisters]

/-- Settles O4: both of the host's writes change only `mem` and `len`. -/
theorem hostBufferLeavesRegisters : Obligations.HostBufferLeavesRegisters :=
  fun s bytes off b => ⟨s.present_sameRegisters bytes, s.overwrite_sameRegisters off b⟩

end Sys2Proof.Machine

/-! ## The frame buffer: no instruction writes it, and the checked reads by offset (20_memory) -/

namespace Sys2Proof.Machine

/-! ### No instruction writes the frame -/

/-- No arm of `exec` stores: both ends of a DECODE write result registers only (20_memory R55). -/
theorem exec_mem_len {i : Instr} {s t : State} (h : exec i s = .next t) : t.mem = s.mem ∧ t.len = s.len := by
  rcases exec_cases h with ⟨m, -, rfl⟩ | ⟨e, -, rfl⟩
  · exact ⟨State.succeed_mem s m, State.succeed_len s m⟩
  · exact ⟨State.raise_mem s e, State.raise_len s e⟩

theorem State.byte_congr {s t : State} (hmem : t.mem = s.mem) (off : Nat) : t.byte off = s.byte off := by
  rw [State.byte, State.byte, hmem]

theorem State.frame_congr {s t : State} (hmem : t.mem = s.mem) (hlen : t.len = s.len) : t.frame = s.frame := by
  rw [State.frame, State.frame, hmem, hlen]

/-- Settles O32: every byte and the frame are read from `mem` and `len`, which no instruction writes. -/
theorem frameBufferNeverWritten : Obligations.FrameBufferNeverWritten := by
  intro i s t h
  obtain ⟨hmem, hlen⟩ := exec_mem_len h
  exact ⟨hmem, hlen, State.byte_congr hmem, State.frame_congr hmem hlen⟩

/-! ### The checked reads of the frame presented (20_memory R52, R53) -/

theorem memRead8_frame_of_lt {s : State} {off : Nat} (h : off < s.len) : memRead8 s.frame off = .ok (s.byte off) := by
  rw [memRead8_of_lt (by simpa using h), State.getElem_frame]

theorem memRead8_frame_of_le {s : State} {off : Nat} (h : s.len ≤ off) :
    memRead8 s.frame off = .error .truncatedPayload :=
  memRead8_of_le (by simpa using h)

theorem memRead16_frame_of_lt {s : State} {off : Nat} (h : off + 1 < s.len) :
    memRead16 s.frame off = .ok (be16 (s.byte off) (s.byte (off + 1))) := by
  rw [memRead16_of_lt (by simpa using h), State.getElem_frame, State.getElem_frame]

theorem memRead16_frame_of_le {s : State} {off : Nat} (h : s.len ≤ off + 1) :
    memRead16 s.frame off = .error .truncatedPayload :=
  memRead16_of_le (by simpa using h)

/-- Settles O1: the offsets 0, 1 and 2 lie inside every frame of at least three bytes. -/
theorem checkedByteRead : Obligations.CheckedByteRead :=
  fun _ _ => ⟨memRead8_frame_of_lt, memRead8_frame_of_le, fun hlen hoff => memRead8_frame_of_lt (by omega)⟩

/-- Settles O2: the pair is `be16` of its two bytes, whose value is the unsigned big-endian sum. -/
theorem checkedPairRead : Obligations.CheckedPairRead :=
  fun s off => ⟨fun h => ⟨_, memRead16_frame_of_lt h, be16_toNat (s.byte off) (s.byte (off + 1))⟩, memRead16_frame_of_le⟩

end Sys2Proof.Machine

/-! ## The paths of a DECODE: SHORT, the exception path, the payload path (40_envelope_dispatch) -/

namespace Sys2Proof.Machine

/-! ### The reads and the unpackers raise TruncatedPayload alone (20_memory R52, R53) -/

/-- The only failure that `x` can be is TruncatedPayload. -/
def OnlyTruncates {α : Type} (x : Except DecodeError α) : Prop := ∀ e, x = .error e → e = .truncatedPayload

theorem OnlyTruncates.ok {α : Type} (a : α) : OnlyTruncates (.ok a) := nofun

theorem OnlyTruncates.truncatedPayload {α : Type} : OnlyTruncates (.error .truncatedPayload : Except DecodeError α) :=
  fun _ h => (Except.error.inj h).symm

theorem OnlyTruncates.bind {α β : Type} {x : Except DecodeError α} {f : α → Except DecodeError β}
    (hx : OnlyTruncates x) (hf : ∀ a, OnlyTruncates (f a)) : OnlyTruncates (x >>= f) := by
  cases x with
  | ok a => exact hf a
  | error e => exact hx e rfl ▸ .truncatedPayload

theorem memRead8_onlyTruncates (frame : List Byte) (off : Nat) : OnlyTruncates (memRead8 frame off) := by
  unfold memRead8
  split
  · exact .ok _
  · exact .truncatedPayload

theorem memRead16_onlyTruncates (frame : List Byte) (off : Nat) : OnlyTruncates (memRead16 frame off) :=
  .bind (memRead8_onlyTruncates _ _) fun _ => .bind (memRead8_onlyTruncates _ _) fun _ => .ok _

theorem readLanes_onlyTruncates {lane : Nat → Except DecodeError Word} (h : ∀ i, OnlyTruncates (lane i)) (n : Nat) :
    OnlyTruncates (readLanes lane n) := by
  induction n with
  | zero => exact .ok _
  | succ n ih => exact .bind ih fun _ => .bind (h n) fun _ => .ok _

theorem bitUnpack_onlyTruncates (frame : List Byte) (q : Nat) : OnlyTruncates (bitUnpack frame q) :=
  readLanes_onlyTruncates (fun _ => .bind (memRead8_onlyTruncates _ _) fun _ => .ok _) q

theorem regUnpack_onlyTruncates (frame : List Byte) (bc : Nat) : OnlyTruncates (regUnpack frame bc) := by
  unfold regUnpack
  split
  · exact .truncatedPayload
  · exact readLanes_onlyTruncates (fun _ => memRead16_onlyTruncates _ _) _

/-! ### The results of the payload decoders (Table R105) -/

/-- A result of a payload decoder for a frame from `slave`: TruncatedPayload, or a message that carries the slave address
and is no exception response. -/
structure PayloadResult (slave : Byte) (r : Except DecodeError Message) : Prop where
  onlyTruncates : OnlyTruncates r
  slave_eq : Yields (fun m => m.slave = slave) r
  shape_ne_exc : Yields (fun m => m.shape ≠ .exc) r

theorem PayloadResult.ok {slave : Byte} {m : Message} (hslave : m.slave = slave) (hshape : m.shape ≠ .exc) :
    PayloadResult slave (.ok m) := ⟨.ok m, .ok hslave, .ok hshape⟩

theorem PayloadResult.bind {α : Type} {slave : Byte} {x : Except DecodeError α} {f : α → Except DecodeError Message}
    (hx : OnlyTruncates x) (hf : ∀ a, PayloadResult slave (f a)) : PayloadResult slave (x >>= f) where
  onlyTruncates := .bind hx fun a => (hf a).onlyTruncates
  slave_eq := .bind fun a => (hf a).slave_eq
  shape_ne_exc := .bind fun a => (hf a).shape_ne_exc

theorem addrQtyMessage_payloadResult (slave : Byte) (fc : FunctionCode) (addr qty : Word) :
    PayloadResult slave (.ok (addrQtyMessage slave fc addr qty)) := .ok rfl nofun

theorem status8Message_payloadResult (slave : Byte) (fc : FunctionCode) (status : Byte) :
    PayloadResult slave (.ok (status8Message slave fc status)) := .ok rfl nofun

theorem bitResponseDecode_payloadResult (frame : List Byte) (slave : Byte) (fc : FunctionCode) :
    PayloadResult slave (bitResponseDecode frame slave fc) :=
  .bind (memRead8_onlyTruncates _ _) fun _ => .bind (bitUnpack_onlyTruncates _ _) fun _ => .ok rfl nofun

theorem regResponseDecode_payloadResult (frame : List Byte) (slave : Byte) (fc : FunctionCode) :
    PayloadResult slave (regResponseDecode frame slave fc) :=
  .bind (memRead8_onlyTruncates _ _) fun _ => .bind (regUnpack_onlyTruncates _ _) fun _ => .ok rfl nofun

/-- The procedures that read two 16-bit fields share one shape: two reads, then a message. -/
theorem PayloadResult.of_two_fields {slave : Byte} {msg : Word → Word → Message}
    (h : ∀ a n, PayloadResult slave (.ok (msg a n))) (frame : List Byte) (off off' : Nat) :
    PayloadResult slave (do let a ← memRead16 frame off; let n ← memRead16 frame off'; return msg a n) :=
  .bind (memRead16_onlyTruncates _ _) fun _ => .bind (memRead16_onlyTruncates _ _) fun _ => h _ _

theorem addrValDecode_payloadResult (frame : List Byte) (slave : Byte) (fc : FunctionCode) :
    PayloadResult slave (addrValDecode frame slave fc) :=
  .of_two_fields (msg := addrValMessage slave fc) (fun _ _ => .ok rfl nofun) frame 2 4

theorem addrQtyWriteDecode_payloadResult (frame : List Byte) (slave : Byte) (fc : FunctionCode) :
    PayloadResult slave (addrQtyWriteDecode frame slave fc) :=
  .of_two_fields (addrQtyMessage_payloadResult slave fc) frame 2 4

theorem diagDecode_payloadResult (frame : List Byte) (slave : Byte) (fc : FunctionCode) :
    PayloadResult slave (diagDecode frame slave fc) :=
  .of_two_fields (msg := diagMessage slave fc) (fun _ _ => .ok rfl nofun) frame 2 4

theorem PayloadResult.decodeRead {slave : Byte} {req : Word → Word → Instr} {rsp : Byte → List Byte → Instr}
    (hreq : ∀ addr qty, PayloadResult slave (outcomeOf (req addr qty)))
    (hrsp : ∀ b2 rest, PayloadResult slave (outcomeOf (rsp b2 rest))) (b2 : Byte) (rest : List Byte) :
    PayloadResult slave (outcomeOf (decodeRead req rsp b2 rest)) := by
  rcases decodeRead_cases req rsp b2 rest with ⟨b3, b4, b5, -, h⟩ | ⟨-, h⟩
  · rw [h]; exact hreq _ _
  · rw [h]; exact hrsp _ _

/-! ### Which path a frame of at least three bytes takes (R101, R103, R107) -/

/-- The three ways a frame of at least three bytes ends: with bit 7 of byte 1 set an exception response, with it clear a
result of a payload decoder, and with either UndefinedFunctionCode. -/
inductive PathResult (slave rawFn b2 : Byte) : Except DecodeError Message → Prop where
  | exception (fc : FunctionCode) (hflag : rawFn.getLsbD 7 = true) :
      PathResult slave rawFn b2 (.ok (excMessage slave fc b2))
  | payload {r : Except DecodeError Message} (hflag : rawFn.getLsbD 7 = false) (hr : PayloadResult slave r) :
      PathResult slave rawFn b2 r
  | undefined : PathResult slave rawFn b2 (.error .undefinedFunctionCode)

/-- By the rows of Table R80, one case a value of byte 1. -/
theorem outcomeOf_decodeLong_path (slave rawFn b2 : Byte) (rest : List Byte) :
    PathResult slave rawFn b2 (outcomeOf (decodeLong slave rawFn b2 rest)) := by
  unfold decodeLong
  split
  · exact .payload rfl
      (.decodeRead (addrQtyMessage_payloadResult slave _) (fun _ _ => bitResponseDecode_payloadResult _ _ _) b2 rest)
  · exact .payload rfl
      (.decodeRead (addrQtyMessage_payloadResult slave _) (fun _ _ => bitResponseDecode_payloadResult _ _ _) b2 rest)
  · exact .payload rfl
      (.decodeRead (addrQtyMessage_payloadResult slave _) (fun _ _ => regResponseDecode_payloadResult _ _ _) b2 rest)
  · exact .payload rfl
      (.decodeRead (addrQtyMessage_payloadResult slave _) (fun _ _ => regResponseDecode_payloadResult _ _ _) b2 rest)
  · exact .payload rfl (addrValDecode_payloadResult _ _ _)
  · exact .payload rfl (addrValDecode_payloadResult _ _ _)
  · exact .payload rfl (status8Message_payloadResult _ _ _)
  · exact .payload rfl (diagDecode_payloadResult _ _ _)
  · exact .payload rfl (addrQtyWriteDecode_payloadResult _ _ _)
  · exact .payload rfl (addrQtyWriteDecode_payloadResult _ _ _)
  · exact .exception .readCoils rfl
  · exact .exception .readDiscreteInputs rfl
  · exact .exception .readHoldingRegisters rfl
  · exact .exception .readInputRegister rfl
  · exact .exception .writeSingleCoil rfl
  · exact .exception .writeSingleRegister rfl
  · exact .exception .slReadExceptionStatus rfl
  · exact .exception .slDiagnostics rfl
  · exact .exception .writeMultipleCoils rfl
  · exact .exception .writeMultipleRegisters rfl
  · exact .undefined

/-- No path of a frame of at least three bytes raises TooShort. -/
theorem PathResult.ne_tooShort {slave rawFn b2 : Byte} {r : Except DecodeError Message}
    (h : PathResult slave rawFn b2 r) : r ≠ .error .tooShort := by
  cases h with
  | exception | undefined => nofun
  | payload _ hr => exact fun he => nomatch hr.onlyTruncates _ he

/-- Every path that succeeds passes the slave address through (R106). -/
theorem PathResult.slave_eq {slave rawFn b2 : Byte} {r : Except DecodeError Message}
    (h : PathResult slave rawFn b2 r) : Yields (fun m => m.slave = slave) r := by
  cases h with
  | exception => exact .ok rfl
  | payload _ hr => exact hr.slave_eq
  | undefined => exact .error _

/-- With the flag set the only failure is UndefinedFunctionCode, and a message is an exception response (R107). -/
theorem PathResult.of_flag {slave rawFn b2 : Byte} {r : Except DecodeError Message}
    (h : PathResult slave rawFn b2 r) (hflag : rawFn.getLsbD 7 = true) :
    r ≠ .error .truncatedPayload ∧ Yields (fun m => m.shape = .exc) r := by
  cases h with
  | exception => exact ⟨nofun, .ok rfl⟩
  | payload hclear => exact nomatch hclear.symm.trans hflag
  | undefined => exact ⟨nofun, .error _⟩

/-- With the flag clear no message is an exception response (R107). -/
theorem PathResult.of_not_flag {slave rawFn b2 : Byte} {r : Except DecodeError Message}
    (h : PathResult slave rawFn b2 r) (hflag : rawFn.getLsbD 7 = false) : Yields (fun m => m.shape ≠ .exc) r := by
  cases h with
  | exception _ hset => exact nomatch hflag.symm.trans hset
  | payload _ hr => exact hr.shape_ne_exc
  | undefined => exact .error _

/-- A step on a frame of at least three bytes ends in one of the paths, with the header that bytes 1 and 2 give. -/
theorem step_long_path {s : State} (h : 3 ≤ s.len) :
    ∃ r, step s = s.finish r ∧ PathResult (s.byte 0) (s.byte 1) (s.byte 2) r ∧
      Yields (Message.Header (s.byte 1) (s.byte 2)) r :=
  ⟨_, step_long h, outcomeOf_decodeLong_path _ _ _ _, outcomeOf_decodeLong_header _ _ _ _⟩

/-! ### The statements -/

theorem failureStatus_injective : Function.Injective failureStatus := by
  intro e e' h
  cases e <;> cases e' <;> simp [failureStatus] at h ⊢

/-- Settles O15: SHORT is the decoding of fewer than three bytes, and no path of a longer frame raises TooShort. -/
theorem shortFrameFails : Obligations.ShortFrameFails := by
  intro s
  refine ⟨fun h => ⟨decode_of_length_lt (by simpa using h), step_short h⟩, fun h => ?_⟩
  obtain ⟨r, hs, hpath, -⟩ := step_long_path h
  cases r with
  | ok m => exact ⟨_, hs, by simp⟩
  | error e => exact ⟨_, hs, fun he => hpath.ne_tooShort (congrArg _ (failureStatus_injective he))⟩

/-- Settles O39: a failure zeroes SLAVE, and every path that succeeds takes it from byte 0. -/
theorem slaveAddressRegister : Obligations.SlaveAddressRegister := by
  intro s
  by_cases h : 3 ≤ s.len
  · obtain ⟨r, hs, hpath, -⟩ := step_long_path h
    cases r with
    | ok m => exact ⟨_, hs, fun _ => hpath.slave_eq m rfl, by simp⟩
    | error e => exact ⟨_, hs, by simp, by simp⟩
  · exact ⟨_, step_short (by omega), by simp, by simp⟩

/-- Settles O43: bit 7 of byte 1 tells the exception path from the payload path. -/
theorem exceptionFlagDecidesPath : Obligations.ExceptionFlagDecidesPath := by
  intro s h
  obtain ⟨r, hs, hpath, hheader⟩ := step_long_path h
  cases r with
  | ok m =>
    exact ⟨_, hs, fun _ => (hheader m rfl).hasErr_eq, fun hset => ⟨by simp, fun _ => (hpath.of_flag hset).2 m rfl⟩,
      fun hclear => hpath.of_not_flag hclear m rfl⟩
  | error e =>
    have hne (hset : (s.byte 1).getLsbD 7 = true) : failureStatus e ≠ .truncated := fun he =>
      (hpath.of_flag hset).1 (congrArg _ (failureStatus_injective he))
    exact ⟨_, hs, by simp, fun hset => ⟨hne hset, by simp⟩, by simp⟩

end Sys2Proof.Machine

/-! ## Exception responses (41_exception_decode) -/

namespace Sys2Proof.Machine

/-! ### The two enumerations as lists of numbers (R110, R121) -/

theorem exists_functionCode_of_mem_recognisedNumbers {code : Byte} (h : code ∈ recognisedNumbers) :
    ∃ fc : FunctionCode, fc ≠ .undefined ∧ fc.value = code := by
  have hmap : recognisedNumbers = FunctionCode.recognised.map FunctionCode.value := rfl
  rw [hmap, List.mem_map] at h
  obtain ⟨fc, hfc, hval⟩ := h
  exact ⟨fc, fun hu => absurd (hu ▸ hfc) (by decide), hval⟩

theorem mem_knownErrorNumbers_iff {e : Byte} : e ∈ knownErrorNumbers ↔ ∃ k ∈ KnownError.all, k.value = e := by
  have hmap : knownErrorNumbers = KnownError.all.map KnownError.value := rfl
  rw [hmap, List.mem_map]

/-- ERRUNK marks the codes outside the ten known ones (R122). -/
theorem errMap_snd (e : Byte) : (errMap e).2 = !knownErrorNumbers.contains e := by
  simp only [errMap, errorCodeOf]
  split
  · next k hk =>
    have hmem : e ∈ knownErrorNumbers :=
      mem_knownErrorNumbers_iff.2 ⟨k, List.mem_of_find?_eq_some hk, by simpa using List.find?_some hk⟩
    simp [errorUnknown, hmem]
  · next hnone =>
    have hmem : e ∉ knownErrorNumbers := by simpa [mem_knownErrorNumbers_iff] using hnone
    simp [errorUnknown, hmem]

/-! ### The ten EXC.* rows (R120, R123 to R132) -/

/-- A recognised code with bit 7 set selects its EXC.* row, whatever the bytes from offset 3 on: one case a code. -/
theorem outcomeOf_decodeLong_exception {fc : FunctionCode} (hfc : fc ≠ .undefined) (slave b2 : Byte)
    (rest : List Byte) :
    outcomeOf (decodeLong slave (fc.value ||| 0x80#8) b2 rest) = .ok (excMessage slave fc b2) := by
  cases fc with
  | undefined => exact absurd rfl hfc
  | _ => rfl

/-- The success outcome on an exception response is the row "exception response" of Table R34. -/
theorem State.succeed_excMessage (s : State) (slave : Byte) (fc : FunctionCode) (e : Byte) :
    s.succeed (excMessage slave fc e) = s.afterException slave fc.value e := by
  simp [State.succeed, excMessage, Message.unset, State.afterException, errMap_fst, errMap_snd]

/-- Settles O22: byte 1 alone selects the EXC.* row at every length of three or more, and the row reads only bytes 0
and 2. -/
theorem exceptionResponseResult : Obligations.ExceptionResponseResult := by
  intro s code hcode hlen hb1
  obtain ⟨fc, hfc, rfl⟩ := exists_functionCode_of_mem_recognisedNumbers hcode
  rw [step_long hlen, hb1, outcomeOf_decodeLong_exception hfc, State.finish_ok, State.succeed_excMessage]

end Sys2Proof.Machine

/-! ## The read requests, and the bit responses (42_read_bits) -/

namespace Sys2Proof.Machine

/-! ### Six bytes of a read code are a request (R104, R144) -/

/-- The function codes whose length selects between request and response: 0x01 to 0x04. -/
def readCodes : List FunctionCode := [.readCoils, .readDiscreteInputs, .readHoldingRegisters, .readInputRegister]

/-- Three bytes from offset 3 on select the request row of a read code, one case a code. -/
theorem outcomeOf_decodeLong_request {fc : FunctionCode} (hfc : fc ∈ readCodes) (slave b2 b3 b4 b5 : Byte) :
    outcomeOf (decodeLong slave fc.value b2 [b3, b4, b5]) =
      .ok (addrQtyMessage slave fc (be16 b2 b3) (be16 b4 b5)) := by
  cases fc with
  | readCoils | readDiscreteInputs | readHoldingRegisters | readInputRegister => rfl
  | _ => exact absurd hfc (by decide)

/-- The success outcome on an address and a quantity is the row ADDR_QTY of Table R34. -/
theorem State.succeed_addrQtyMessage (s : State) (slave : Byte) (fc : FunctionCode) (addr qty : Word) :
    s.succeed (addrQtyMessage slave fc addr qty) = s.afterAddrQty slave fc.value addr qty := rfl

/-- Settles O17: byte 1 and the length six select the request row, whose two fields are the pairs at offsets 2 and 4. -/
theorem readRequestResult : Obligations.ReadRequestResult := by
  intro s code hcode hlen hb1
  obtain ⟨fc, hfc, rfl⟩ := (List.mem_map (f := FunctionCode.value) (l := readCodes)).1 hcode
  rw [step_eq_finish, State.frame_six hlen, decode_long, hb1, outcomeOf_decodeLong_request hfc, State.finish_ok,
    State.succeed_addrQtyMessage]
  simp only [pairOf_eq_be16]

/-! ### BitResponseDecode at both sides of its payload bound (R145, R146) -/

/-- The success outcome on unpacked bits is the row BITS of Table R34. -/
theorem State.succeed_bitsMessage (s : State) (slave : Byte) (fc : FunctionCode) (q : Byte) {bits : List Word}
    {byteAt : Nat → Byte} (hbits : fillValues bits = bitsVal byteAt q.toNat) :
    s.succeed (bitsMessage slave fc q bits) = s.afterBits slave fc.value q byteAt := by
  simp [State.succeed, bitsMessage, Message.unset, State.afterBits, hbits, zext16_byte]

/-- A frame that holds the declared bits unpacks to the values of VAL that its payload bytes give. -/
theorem bitUnpack_fills {frame : List Byte} {q : Nat} {byteAt : Nat → Byte} (hfits : ceil8 q + 3 ≤ frame.length)
    (hbyte : ∀ off < frame.length, 3 ≤ off → frame.getD off 0x00#8 = byteAt off) :
    ∃ bits, bitUnpack frame q = .ok bits ∧ fillValues bits = bitsVal byteAt q := by
  refine ⟨_, bitUnpack_ok hfits, (fillValues_bits (frame.getD · 0x00#8) q).trans (bitsVal_congr fun i hi => ?_)⟩
  have hlt : 3 + i / 8 < frame.length := by unfold ceil8 at hfits; omega
  simp only [hbyte _ hlt (by omega)]

/-- A frame that holds the bits byte 2 declares ends in the row BITS. -/
theorem State.finish_bitResponseDecode_fits (s : State) {frame : List Byte} (slave : Byte) (fc : FunctionCode)
    {q : Byte} {byteAt : Nat → Byte} (hq : memRead8 frame 2 = .ok q) (hfits : ceil8 q.toNat + 3 ≤ frame.length)
    (hbyte : ∀ off < frame.length, 3 ≤ off → frame.getD off 0x00#8 = byteAt off) :
    s.finish (bitResponseDecode frame slave fc) = .next (s.afterBits slave fc.value q byteAt) := by
  obtain ⟨bits, hunpack, hfill⟩ := bitUnpack_fills hfits hbyte
  rw [bitResponseDecode, hq, ok_bind, hunpack, ok_bind, pure_ok, finish_ok, succeed_bitsMessage s slave fc q hfill]

/-- A frame that lacks one of the bytes for them ends in TruncatedPayload. -/
theorem State.finish_bitResponseDecode_truncated (s : State) {frame : List Byte} (slave : Byte) (fc : FunctionCode)
    {q : Byte} (hq : memRead8 frame 2 = .ok q) (hlen : 3 ≤ frame.length) (hcut : frame.length < ceil8 q.toNat + 3) :
    s.finish (bitResponseDecode frame slave fc) = .next (s.afterFailure .truncated) := by
  rw [bitResponseDecode, hq, ok_bind, bitUnpack_error hlen hcut, error_bind, finish_error, raise_eq_afterFailure]
  rfl

/-! ### Any other length of 0x01 and 0x02 is a bit response (R104) -/

/-- The function codes whose response is packed bits. -/
def bitReadCodes : List FunctionCode := [.readCoils, .readDiscreteInputs]

/-- Other than three bytes from offset 3 on select the response row, whichever of the two codes it is. -/
theorem outcomeOf_decodeLong_bitResponse {fc : FunctionCode} (hfc : fc ∈ bitReadCodes) (slave q : Byte)
    {rest : List Byte} (hne : rest.length ≠ 3) :
    outcomeOf (decodeLong slave fc.value q rest) = bitResponseDecode (frameOf slave fc (q :: rest)) slave fc := by
  cases fc with
  | readCoils => exact congrArg outcomeOf (decodeRead_of_length_ne (.rcReq slave) (.rcRsp slave) q hne)
  | readDiscreteInputs => exact congrArg outcomeOf (decodeRead_of_length_ne (.rdiReq slave) (.rdiRsp slave) q hne)
  | _ => exact absurd hfc (by decide)

/-- A presented frame as its slave address, function code and body. -/
theorem State.frame_eq_frameOf {s : State} {fc : FunctionCode} (hlen : 3 ≤ s.len) (hb1 : s.byte 1 = fc.value) :
    s.frame = frameOf (s.byte 0) fc (s.byte 2 :: s.frame.drop 3) := by
  rw [frameOf, ← hb1, ← State.frame_long hlen]

/-- The step on a bit response is BitResponseDecode of the frame presented. -/
theorem step_bitResponse {s : State} {fc : FunctionCode} (hfc : fc ∈ bitReadCodes) (hlen : 3 ≤ s.len)
    (hne : s.len ≠ 6) (hb1 : s.byte 1 = fc.value) :
    step s = s.finish (bitResponseDecode s.frame (s.byte 0) fc) := by
  have hrest : (s.frame.drop 3).length ≠ 3 := by rw [List.length_drop, State.length_frame]; omega
  rw [step_long hlen, hb1, outcomeOf_decodeLong_bitResponse hfc _ _ hrest, ← State.frame_eq_frameOf hlen hb1]

/-- Settles O18: the payload from offset 3 on has `len - 3` bytes, and the declared bits take `ceil8` of byte 2. -/
theorem bitResponseResult : Obligations.BitResponseResult := by
  intro s code hcode hlen hne hb1
  obtain ⟨fc, hfc, rfl⟩ := (List.mem_map (f := FunctionCode.value) (l := bitReadCodes)).1 hcode
  have hq : memRead8 s.frame 2 = .ok (s.byte 2) := memRead8_frame_of_lt hlen
  have hframe : s.frame.length = s.len := s.length_frame
  rw [step_bitResponse hfc hlen hne hb1]
  refine ⟨fun hfits => ?_, fun hcut => ?_⟩
  · refine s.finish_bitResponseDecode_fits _ _ hq ?_ fun off hoff _ => State.getD_frame (hframe ▸ hoff)
    rw [hframe, ceil8]
    omega
  · refine s.finish_bitResponseDecode_truncated _ _ hq (hframe ▸ hlen) ?_
    rw [hframe, ceil8]
    omega

end Sys2Proof.Machine

/-! ## The register responses (43_read_registers) -/

namespace Sys2Proof.Machine

/-! ### RegResponseDecode at both sides of its payload bound (R164, R165) -/

/-- The success outcome on unpacked registers is the row REGS of Table R34. -/
theorem State.succeed_regsMessage (s : State) (slave : Byte) (fc : FunctionCode) (bc : Byte) {regs : List Word}
    {byteAt : Nat → Byte} (hregs : fillValues regs = regsVal byteAt (bc.toNat / 2)) :
    s.succeed (regsMessage slave fc bc regs) = s.afterRegs slave fc.value bc byteAt := by
  simp [State.succeed, regsMessage, Message.unset, State.afterRegs, hregs]

/-- A frame that holds the declared bytes unpacks to the values of VAL that its payload bytes give. The last byte of an
odd count lies in no pair. -/
theorem regUnpack_fills {frame : List Byte} {bc : Nat} {byteAt : Nat → Byte} (hfits : 3 + bc ≤ frame.length)
    (hbyte : ∀ off < frame.length, 3 ≤ off → frame.getD off 0x00#8 = byteAt off) :
    ∃ regs, regUnpack frame bc = .ok regs ∧ fillValues regs = regsVal byteAt (bc / 2) :=
  ⟨_, regUnpack_ok hfits, (fillValues_regs (frame.getD · 0x00#8) (bc / 2)).trans
    (regsVal_congr fun off hoff => hbyte off (by omega))⟩

/-- A frame that holds the bytes byte 2 declares ends in the row REGS. -/
theorem State.finish_regResponseDecode_fits (s : State) {frame : List Byte} (slave : Byte) (fc : FunctionCode)
    {bc : Byte} {byteAt : Nat → Byte} (hbc : memRead8 frame 2 = .ok bc) (hfits : 3 + bc.toNat ≤ frame.length)
    (hbyte : ∀ off < frame.length, 3 ≤ off → frame.getD off 0x00#8 = byteAt off) :
    s.finish (regResponseDecode frame slave fc) = .next (s.afterRegs slave fc.value bc byteAt) := by
  obtain ⟨regs, hunpack, hfill⟩ := regUnpack_fills hfits hbyte
  rw [regResponseDecode, hbc, ok_bind, hunpack, ok_bind, pure_ok, finish_ok, succeed_regsMessage s slave fc bc hfill]

/-- A frame that lacks one of them ends in TruncatedPayload. -/
theorem State.finish_regResponseDecode_truncated (s : State) {frame : List Byte} (slave : Byte) (fc : FunctionCode)
    {bc : Byte} (hbc : memRead8 frame 2 = .ok bc) (hcut : frame.length < 3 + bc.toNat) :
    s.finish (regResponseDecode frame slave fc) = .next (s.afterFailure .truncated) := by
  rw [regResponseDecode, hbc, ok_bind, regUnpack_error hcut, error_bind, finish_error, raise_eq_afterFailure]
  rfl

/-! ### Any other length of 0x03 and 0x04 is a register response (R104) -/

/-- The function codes whose response is 16-bit registers. -/
def registerReadCodes : List FunctionCode := [.readHoldingRegisters, .readInputRegister]

/-- Other than three bytes from offset 3 on select the response row, whichever of the two codes it is. -/
theorem outcomeOf_decodeLong_registerResponse {fc : FunctionCode} (hfc : fc ∈ registerReadCodes) (slave bc : Byte)
    {rest : List Byte} (hne : rest.length ≠ 3) :
    outcomeOf (decodeLong slave fc.value bc rest) = regResponseDecode (frameOf slave fc (bc :: rest)) slave fc := by
  cases fc with
  | readHoldingRegisters =>
    exact congrArg outcomeOf (decodeRead_of_length_ne (.rhrReq slave) (.rhrRsp slave) bc hne)
  | readInputRegister => exact congrArg outcomeOf (decodeRead_of_length_ne (.rirReq slave) (.rirRsp slave) bc hne)
  | _ => exact absurd hfc (by decide)

/-- The step on a register response is RegResponseDecode of the frame presented. -/
theorem step_registerResponse {s : State} {fc : FunctionCode} (hfc : fc ∈ registerReadCodes) (hlen : 3 ≤ s.len)
    (hne : s.len ≠ 6) (hb1 : s.byte 1 = fc.value) :
    step s = s.finish (regResponseDecode s.frame (s.byte 0) fc) := by
  have hrest : (s.frame.drop 3).length ≠ 3 := by rw [List.length_drop, State.length_frame]; omega
  rw [step_long hlen, hb1, outcomeOf_decodeLong_registerResponse hfc _ _ hrest, ← State.frame_eq_frameOf hlen hb1]

/-- Settles O19: byte 1 and a length other than six select the response row, and the bound on byte 2 is the check that
RegUnpack makes before it reads any pair. -/
theorem registerResponseResult : Obligations.RegisterResponseResult := by
  intro s code hcode hlen hne hb1
  obtain ⟨fc, hfc, rfl⟩ := (List.mem_map (f := FunctionCode.value) (l := registerReadCodes)).1 hcode
  have hbc : memRead8 s.frame 2 = .ok (s.byte 2) := memRead8_frame_of_lt hlen
  have hframe : s.frame.length = s.len := s.length_frame
  rw [step_registerResponse hfc hlen hne hb1]
  exact ⟨fun hfits => s.finish_regResponseDecode_fits _ _ hbc (hframe ▸ hfits)
      fun off hoff _ => State.getD_frame (hframe ▸ hoff),
    fun hcut => s.finish_regResponseDecode_truncated _ _ hbc (hframe ▸ hcut)⟩

end Sys2Proof.Machine

/-! ## The causes of the three failures, and the exception code that is none (60_exceptions) -/

namespace Sys2Proof.Machine

/-! ### The unknown exception code (R216) -/

/-- Settles O44: the row "exception response" takes ERRCODE from byte 2 and sets ERRUNK for a byte outside the ten. -/
theorem unknownExceptionCodeDecodes : Obligations.UnknownExceptionCodeDecodes := by
  intro s code hcode hlen hb1 hunknown
  have herrUnk : (s.afterException (s.byte 0) code (s.byte 2)).errUnk = true := by
    simpa [State.afterException, knownErrorNumbers] using hunknown
  exact ⟨_, exceptionResponseResult s code hcode hlen hb1, rfl, herrUnk, rfl, if_pos herrUnk⟩

/-! ### Byte 1: its code is unrecognised, or stands plain or flagged (30_encoding R71, R84) -/

theorem eq_masked_or_eq_flagged (b : Byte) : b = b &&& 0x7F#8 ∨ b = (b &&& 0x7F#8) ||| 0x80#8 := by
  revert b; decide

theorem masked_mem_recognisedNumbers_of_mem_legalCodes : ∀ b ∈ legalCodes, b &&& 0x7F#8 ∈ recognisedNumbers := by
  decide

/-- An unrecognised code selects the ILLEGAL row, plain or flagged (R214). -/
theorem step_unrecognised {s : State} (hlen : 3 ≤ s.len) (hcode : s.byte 1 &&& 0x7F#8 ∉ recognisedNumbers) :
    step s = .next (s.raise .undefinedFunctionCode) := by
  have hillegal : s.byte 1 ∉ legalCodes := fun h => hcode (masked_mem_recognisedNumbers_of_mem_legalCodes _ h)
  rw [step_long hlen, decodeLong_illegal hillegal, outcomeOf, State.finish_error]

/-! ### TruncatedPayload, by the class of byte 1 (R215) -/

/-- What R215 says of the bytes and the length of a frame that raises TruncatedPayload. -/
def State.PayloadCut (s : State) : Prop :=
  (s.byte 1 ∈ [0x01#8, 0x02#8] ∧ s.len ≠ 6 ∧ s.len - 3 < ((s.byte 2).toNat + 7) / 8) ∨
  (s.byte 1 ∈ [0x03#8, 0x04#8] ∧ s.len ≠ 6 ∧ s.len < 3 + (s.byte 2).toNat) ∨
  (s.byte 1 ∈ [0x05#8, 0x06#8, 0x08#8, 0x0F#8, 0x10#8] ∧ s.len < 6)

/-- Only a recognised code without the flag can have its payload cut. -/
theorem State.PayloadCut.mem_recognisedNumbers {s : State} (h : s.PayloadCut) : s.byte 1 ∈ recognisedNumbers := by
  have hbits : [0x01#8, 0x02#8] ⊆ recognisedNumbers := by decide
  have hregs : [0x03#8, 0x04#8] ⊆ recognisedNumbers := by decide
  have htwo : [0x05#8, 0x06#8, 0x08#8, 0x0F#8, 0x10#8] ⊆ recognisedNumbers := by decide
  rcases h with ⟨h, -⟩ | ⟨h, -⟩ | ⟨h, -⟩
  · exact hbits h
  · exact hregs h
  · exact htwo h

theorem State.PayloadCut.masked_mem_recognisedNumbers {s : State} (h : s.PayloadCut) :
    s.byte 1 &&& 0x7F#8 ∈ recognisedNumbers :=
  masked_mem_recognisedNumbers_of_mem_legalCodes _ (List.mem_append_left _ h.mem_recognisedNumbers)

theorem State.not_payloadCut_of_flagged {s : State} {code : Byte} (hb1 : s.byte 1 = code ||| 0x80#8) :
    ¬s.PayloadCut := fun h => by
  have hclear : ∀ b ∈ recognisedNumbers, b.getLsbD 7 = false := by decide
  have hbit := hclear _ h.mem_recognisedNumbers
  simp [hb1] at hbit

/-- The step ends in TruncatedPayload if `cut` holds and succeeds if it does not. -/
def TruncatesExactlyIf (cut : Prop) (s : State) : Prop :=
  ∃ t, step s = .next t ∧ (cut ∧ t.status = .truncated ∨ ¬cut ∧ t.status = .ok)

theorem TruncatesExactlyIf.intro {cut : Prop} {s t : State}
    (hcut : cut → step s = .next (s.afterFailure .truncated)) (hok : ¬cut → step s = .next t) (ht : t.status = .ok) :
    TruncatesExactlyIf cut s := by
  by_cases h : cut
  · exact ⟨_, hcut h, .inl ⟨h, rfl⟩⟩
  · exact ⟨t, hok h, .inr ⟨h, ht⟩⟩

/-- Of a read code only a length other than six is the response, which alone can be cut (R104). -/
theorem TruncatesExactlyIf.of_read {cut : Prop} {s : State} (hcode : s.byte 1 ∈ [0x01#8, 0x02#8, 0x03#8, 0x04#8])
    (hrsp : s.len ≠ 6 → TruncatesExactlyIf cut s) : TruncatesExactlyIf (s.len ≠ 6 ∧ cut) s := by
  by_cases hsix : s.len = 6
  · exact .intro (fun h => absurd hsix h.1) (fun _ => readRequestResult s _ hcode hsix rfl) rfl
  · simpa only [hsix, ne_eq, not_false_eq_true, true_and] using hrsp hsix

theorem truncatesExactlyIf_bitRead {s : State} (hlen : 3 ≤ s.len) (hcode : s.byte 1 ∈ [0x01#8, 0x02#8]) :
    TruncatesExactlyIf (s.len ≠ 6 ∧ s.len - 3 < ((s.byte 2).toNat + 7) / 8) s := by
  refine .of_read (List.mem_append_left [0x03#8, 0x04#8] hcode) fun hsix => ?_
  obtain ⟨hfits, hcut⟩ := bitResponseResult s _ hcode hlen hsix rfl
  exact .intro hcut (fun h => hfits (Nat.le_of_not_lt h)) rfl

theorem truncatesExactlyIf_registerRead {s : State} (hlen : 3 ≤ s.len) (hcode : s.byte 1 ∈ [0x03#8, 0x04#8]) :
    TruncatesExactlyIf (s.len ≠ 6 ∧ s.len < 3 + (s.byte 2).toNat) s := by
  refine .of_read (List.mem_append_right [0x01#8, 0x02#8] hcode) fun hsix => ?_
  obtain ⟨hfits, hcut⟩ := registerResponseResult s _ hcode hlen hsix rfl
  exact .intro hcut (fun h => hfits (Nat.le_of_not_lt h)) rfl

/-- The function codes whose frame is two 16-bit fields at offsets 2 and 4: the writes and DIAG. -/
def twoFieldCodes : List FunctionCode :=
  [.writeSingleCoil, .writeSingleRegister, .slDiagnostics, .writeMultipleCoils, .writeMultipleRegisters]

/-- The rows of these codes differ only in the message they make of the two fields. -/
theorem outcomeOf_decodeLong_twoFields {fc : FunctionCode} (hfc : fc ∈ twoFieldCodes) (slave b2 : Byte)
    (rest : List Byte) :
    ∃ msg : Word → Word → Message, outcomeOf (decodeLong slave fc.value b2 rest) =
      (do let a ← memRead16 (frameOf slave fc (b2 :: rest)) 2
          let n ← memRead16 (frameOf slave fc (b2 :: rest)) 4
          return msg a n) := by
  cases fc with
  | writeSingleCoil | writeSingleRegister => exact ⟨addrValMessage slave _, rfl⟩
  | slDiagnostics => exact ⟨diagMessage slave _, rfl⟩
  | writeMultipleCoils | writeMultipleRegisters => exact ⟨addrQtyMessage slave _, rfl⟩
  | _ => exact absurd hfc (by decide)

theorem truncatesExactlyIf_twoFields {s : State} (hlen : 3 ≤ s.len)
    (hcode : s.byte 1 ∈ [0x05#8, 0x06#8, 0x08#8, 0x0F#8, 0x10#8]) : TruncatesExactlyIf (s.len < 6) s := by
  obtain ⟨fc, hfc, hb1⟩ := (List.mem_map (f := FunctionCode.value) (l := twoFieldCodes)).1 hcode
  obtain ⟨msg, hmsg⟩ := outcomeOf_decodeLong_twoFields hfc (s.byte 0) (s.byte 2) (s.frame.drop 3)
  have hs := step_long hlen
  rw [← hb1, hmsg, ← State.frame_eq_frameOf hlen hb1.symm] at hs
  exact .intro (fun h => hs.trans (congrArg s.finish (two_fields_of_short (by simpa using h) msg)))
    (fun h => hs.trans (congrArg s.finish (two_fields_of_long (by simpa using h) msg))) rfl

theorem step_readExceptionStatus {s : State} (hlen : 3 ≤ s.len) (hb1 : s.byte 1 = 0x07#8) :
    step s = .next (s.succeed (status8Message (s.byte 0) .slReadExceptionStatus (s.byte 2))) := by
  rw [step_long hlen, hb1]
  rfl

/-- The classes of a recognised code: bit read, register read, two fields, and 0x07, whose frame nothing cuts. -/
theorem mem_recognisedNumbers_cases : ∀ b ∈ recognisedNumbers,
    b ∈ [0x01#8, 0x02#8] ∨ b ∈ [0x03#8, 0x04#8] ∨ b ∈ [0x05#8, 0x06#8, 0x08#8, 0x0F#8, 0x10#8] ∨ b = 0x07#8 := by
  decide

theorem State.payloadCut_iff_of_bitRead {s : State} (hcode : s.byte 1 ∈ [0x01#8, 0x02#8]) :
    s.PayloadCut ↔ s.len ≠ 6 ∧ s.len - 3 < ((s.byte 2).toNat + 7) / 8 := by
  have hother : ∀ b ∈ [0x01#8, 0x02#8], b ∉ [0x03#8, 0x04#8] ∧ b ∉ [0x05#8, 0x06#8, 0x08#8, 0x0F#8, 0x10#8] := by
    decide
  obtain ⟨hregs, htwo⟩ := hother _ hcode
  simp only [State.PayloadCut, hcode, hregs, htwo, true_and, false_and, or_false]

theorem State.payloadCut_iff_of_registerRead {s : State} (hcode : s.byte 1 ∈ [0x03#8, 0x04#8]) :
    s.PayloadCut ↔ s.len ≠ 6 ∧ s.len < 3 + (s.byte 2).toNat := by
  have hother : ∀ b ∈ [0x03#8, 0x04#8], b ∉ [0x01#8, 0x02#8] ∧ b ∉ [0x05#8, 0x06#8, 0x08#8, 0x0F#8, 0x10#8] := by
    decide
  obtain ⟨hbits, htwo⟩ := hother _ hcode
  simp only [State.PayloadCut, hcode, hbits, htwo, true_and, false_and, false_or, or_false]

theorem State.payloadCut_iff_of_twoFields {s : State} (hcode : s.byte 1 ∈ [0x05#8, 0x06#8, 0x08#8, 0x0F#8, 0x10#8]) :
    s.PayloadCut ↔ s.len < 6 := by
  have hother : ∀ b ∈ [0x05#8, 0x06#8, 0x08#8, 0x0F#8, 0x10#8], b ∉ [0x01#8, 0x02#8] ∧ b ∉ [0x03#8, 0x04#8] := by
    decide
  obtain ⟨hbits, hregs⟩ := hother _ hcode
  simp only [State.PayloadCut, hcode, hbits, hregs, true_and, false_and, false_or]

/-- A frame of a recognised code raises TruncatedPayload exactly as R215 says and has no other failure: one case a class
of byte 1. -/
theorem truncatesExactlyIf_payloadCut {s : State} (hlen : 3 ≤ s.len)
    (hcode : s.byte 1 &&& 0x7F#8 ∈ recognisedNumbers) : TruncatesExactlyIf s.PayloadCut s := by
  rcases eq_masked_or_eq_flagged (s.byte 1) with hplain | hflagged
  · rw [← hplain] at hcode
    rcases mem_recognisedNumbers_cases _ hcode with hbits | hregs | htwo | hres
    · rw [State.payloadCut_iff_of_bitRead hbits]
      exact truncatesExactlyIf_bitRead hlen hbits
    · rw [State.payloadCut_iff_of_registerRead hregs]
      exact truncatesExactlyIf_registerRead hlen hregs
    · rw [State.payloadCut_iff_of_twoFields htwo]
      exact truncatesExactlyIf_twoFields hlen htwo
    · exact .intro (by simp [State.PayloadCut, hres]) (fun _ => step_readExceptionStatus hlen hres) rfl
  · exact .intro (fun h => absurd h (State.not_payloadCut_of_flagged hflagged))
      (fun _ => exceptionResponseResult s _ hcode hlen hflagged) rfl

/-! ### The statement -/

/-- Settles O37: fewer than three bytes, an unrecognised code, and a recognised one whose payload is cut or not. -/
theorem failureCauses : Obligations.FailureCauses := by
  intro s
  change ∃ t, step s = .next t ∧ (_ ↔ _) ∧ (_ ↔ _) ∧ (t.status = .truncated ↔ 3 ≤ s.len ∧ s.PayloadCut)
  by_cases hlen : 3 ≤ s.len
  · have hlong : ¬s.len < 3 := Nat.not_lt.2 hlen
    by_cases hcode : s.byte 1 &&& 0x7F#8 ∈ recognisedNumbers
    · obtain ⟨t, hs, ⟨hcut, ht⟩ | ⟨hcut, ht⟩⟩ := truncatesExactlyIf_payloadCut hlen hcode
      · exact ⟨t, hs, by simp [ht, hlong], by simp [ht, hcode], by simp [ht, hlen, hcut]⟩
      · exact ⟨t, hs, by simp [ht, hlong], by simp [ht, hcode], by simp [ht, hcut]⟩
    · have hcut : ¬s.PayloadCut := fun h => hcode h.masked_mem_recognisedNumbers
      exact ⟨_, step_unrecognised hlen hcode, by simp [failureStatus, hlong], by simp [failureStatus, hlen, hcode],
        by simp [failureStatus, hcut]⟩
  · exact ⟨_, step_short (Nat.lt_of_not_le hlen), by simp [failureStatus, Nat.lt_of_not_le hlen],
      by simp [failureStatus, hlen], by simp [failureStatus, hlen]⟩

end Sys2Proof.Machine

/-! ## Encoding: decode and encode agree, and a step runs what is presented (30_encoding) -/

namespace Sys2Proof

/-! ### Decode of encode -/

theorem decode_encodeRequest (slave rawFn : Byte) (addr qty : Word) :
    decode (encodeRequest slave rawFn addr qty) =
      decodeLong slave rawFn (hiByte addr) [loByte addr, hiByte qty, loByte qty] := rfl

/-- A row whose body starts at offset 2 has a byte there: its frame has at least three bytes. -/
theorem exists_cons_of_minLen_le {body : List Byte} (h : Config.minLen ≤ body.length + 2) :
    ∃ b2 rest, body = b2 :: rest := by
  cases body with
  | nil => exact absurd h (by decide)
  | cons b2 rest => exact ⟨b2, rest, rfl⟩

/-- A response row has a payload of other than three bytes. -/
theorem length_ne_of_wellFormed {payload : List Byte} (h : (payload.length + 3 != Config.reqLen) = true) :
    payload.length ≠ 3 := fun h3 => by
  simp [h3] at h

theorem wellFormed_illegal_iff {slave rawFn : Byte} {body : List Byte} :
    WellFormed (.illegal slave rawFn body) ↔ rawFn ∉ legalCodes ∧ Config.minLen ≤ body.length + 2 := by
  simp [WellFormed, wellFormed]

/-- Settles O6: one case a row. The requests need the two bytes of a field to give it back, the responses a length other
than six, the rows with a body its first byte, and ILLEGAL a byte 1 outside the legal values. -/
theorem decodeOfEncode : Obligations.DecodeOfEncode := by
  intro i hwf
  cases i with
  | short bytes => exact decode_of_length_lt (of_decide_eq_true hwf)
  | rcReq | rdiReq | rhrReq | rirReq => simp [encode, decode_encodeRequest, decodeLong, decodeRead]
  | rcRsp | rdiRsp | rhrRsp | rirRsp => exact decodeRead_of_length_ne _ _ _ (length_ne_of_wellFormed hwf)
  | wsc _ body | wsr _ body | diag _ body | wmc _ body | wmr _ body =>
    obtain ⟨b2, rest, rfl⟩ := exists_cons_of_minLen_le (of_decide_eq_true hwf)
    rfl
  | res | excRc | excRdi | excRhr | excRir | excWsc | excWsr | excRes | excDiag | excWmc | excWmr => rfl
  | illegal slave rawFn body =>
    obtain ⟨hcode, hlen⟩ := wellFormed_illegal_iff.1 hwf
    obtain ⟨b2, rest, rfl⟩ := exists_cons_of_minLen_le hlen
    exact decodeLong_illegal hcode slave b2 rest

/-! ### Encode of decode -/

/-- `i` is well-formed and `bytes` is its frame. -/
def IsFrameOf (bytes : List Byte) (i : Instr) : Prop := WellFormed i ∧ encode i = bytes

/-- A byte at offset 2 makes the three bytes that every longer row asks for. -/
theorem minLen_le_of_cons (b2 : Byte) (rest : List Byte) : Config.minLen ≤ (b2 :: rest).length + 2 :=
  Nat.le_add_left 3 rest.length

/-- Whichever row the length of a read code selects, its frame is the one decoded. -/
theorem IsFrameOf.decodeRead {req : Word → Word → Instr} {rsp : Byte → List Byte → Instr} {slave rawFn : Byte}
    (hreq : ∀ addr qty, IsFrameOf (encodeRequest slave rawFn addr qty) (req addr qty))
    (hrsp : ∀ b2 rest, (rest.length + 3 != Config.reqLen) = true →
      IsFrameOf (slave :: rawFn :: b2 :: rest) (rsp b2 rest))
    (b2 : Byte) (rest : List Byte) : IsFrameOf (slave :: rawFn :: b2 :: rest) (decodeRead req rsp b2 rest) := by
  rcases decodeRead_cases req rsp b2 rest with ⟨b3, b4, b5, rfl, h⟩ | ⟨hlen, h⟩
  · rw [h]
    simpa [encodeRequest] using hreq (be16 b2 b3) (be16 b4 b5)
  · rw [h]
    exact hrsp b2 rest (bne_iff_ne.2 fun h6 => hlen (Nat.add_right_cancel (m := 3) h6))

/-- By the rows of Table R80, one case a value of byte 1. -/
theorem decodeLong_isFrameOf (slave rawFn b2 : Byte) (rest : List Byte) :
    IsFrameOf (slave :: rawFn :: b2 :: rest) (decodeLong slave rawFn b2 rest) := by
  unfold decodeLong
  split
  case h_1 | h_2 | h_3 | h_4 =>
    refine .decodeRead ?_ ?_ b2 rest
    · exact fun _ _ => ⟨rfl, rfl⟩
    · exact fun _ _ h => ⟨h, rfl⟩
  case h_5 | h_6 | h_8 | h_9 | h_10 => exact ⟨decide_eq_true (minLen_le_of_cons b2 rest), rfl⟩
  case h_21 =>
    have hcode : rawFn ∉ legalCodes := by simp_all [legalCodes]
    exact ⟨wellFormed_illegal_iff.2 ⟨hcode, minLen_le_of_cons b2 rest⟩, rfl⟩
  all_goals exact ⟨rfl, rfl⟩

/-- Settles O7: a frame of fewer than three bytes is SHORT, and a longer one is of the row its byte 1 selects. -/
theorem everyFrameIsOneInstruction : Obligations.EveryFrameIsOneInstruction
  | slave :: rawFn :: b2 :: rest => decodeLong_isFrameOf slave rawFn b2 rest
  | [] | [_] | [_, _] => ⟨rfl, rfl⟩

/-! ### ILLEGAL and the recognised codes -/

/-- The 20 legal values are the ten recognised codes, plain and flagged (30_encoding R81, R84). -/
theorem mem_legalCodes_iff (rawFn : Byte) :
    rawFn ∈ legalCodes ↔ Machine.maskedCode rawFn ∈ Machine.recognisedNumbers := by
  revert rawFn; decide

/-- Settles O8: what decodes to ILLEGAL is a well-formed ILLEGAL, and its byte 1 is no legal value. -/
theorem illegalExactlyUnrecognised : Obligations.IllegalExactlyUnrecognised := by
  intro slave rawFn b2 rest
  rw [← mem_legalCodes_iff]
  refine ⟨fun h => ?_, fun h => decodeLong_illegal h slave b2 rest⟩
  obtain ⟨hwf, -⟩ := everyFrameIsOneInstruction (slave :: rawFn :: b2 :: rest)
  rw [h] at hwf
  exact (wellFormed_illegal_iff.1 hwf).1

/-- Settles O9: the decoder computes on frames written out byte by byte. -/
theorem sampleFramesDecode : Obligations.SampleFramesDecode :=
  ⟨rfl, rfl, rfl, rfl, rfl, rfl, rfl, rfl⟩

end Sys2Proof

namespace Sys2Proof.Machine

/-! ### A step runs what is presented -/

theorem step_of_frame_eq_encode {s : State} {i : Instr} (hwf : WellFormed i) (h : s.frame = encode i) :
    step s = exec i s := by
  rw [step, h, decodeOfEncode i hwf]

/-- Settles O10: the step decodes the frame it finds, and that of a well-formed instruction decodes to it. -/
theorem stepRunsPresentedInstruction : Obligations.StepRunsPresentedInstruction :=
  fun s i hwf => ⟨step_of_frame_eq_encode hwf, step_of_frame_eq_encode hwf (s.frame_present (encode i))⟩

/-- Settles O11: placing a word presents the frame that `decodeTableWord` decodes. -/
theorem tableWordIsWhatStepRuns : Obligations.TableWordIsWhatStepRuns := by
  intro s nbits w i h
  rw [step, State.withFetchWord, State.frame_present, Option.some.inj h]

end Sys2Proof.Machine

/-! ## What each instruction answers, as an instruction and as a presented frame (40 to 45) -/

namespace Sys2Proof.Machine

/-! ### The rows that read no byte list -/

/-- A DECODE that fails ends in the row "failure" of Table R34. -/
theorem State.finish_failure (s : State) (e : DecodeError) :
    s.finish (.error e) = .next (s.afterFailure (failureStatus e)) := by
  rw [State.finish_error, State.raise_eq_afterFailure]

/-- Settles O23: neither row reads what it carries. -/
theorem failureRowsComplete : Obligations.FailureRowsComplete :=
  fun s _ _ _ => ⟨s.finish_failure .tooShort, s.finish_failure .undefinedFunctionCode⟩

/-- Settles O24: the four requests end in the row ADDR_QTY of their own function code. -/
theorem readRequestsComplete : Obligations.ReadRequestsComplete := by
  intro s slave addr qty
  have hrow (fc : FunctionCode) :
      s.finish (.ok (addrQtyMessage slave fc addr qty)) = .next (s.afterAddrQty slave fc.value addr qty) := by
    rw [State.finish_ok, State.succeed_addrQtyMessage]
  exact ⟨hrow .readCoils, hrow .readDiscreteInputs, hrow .readHoldingRegisters, hrow .readInputRegister⟩

/-- Settles O29: the ten EXC.* end in the row "exception response" of their own function code. -/
theorem exceptionResponsesComplete : Obligations.ExceptionResponsesComplete := by
  intro s slave code tail
  have hrow (fc : FunctionCode) :
      s.finish (.ok (excMessage slave fc code)) = .next (s.afterException slave fc.value code) := by
    rw [State.finish_ok, State.succeed_excMessage]
  exact ⟨hrow .readCoils, hrow .readDiscreteInputs, hrow .readHoldingRegisters, hrow .readInputRegister,
    hrow .writeSingleCoil, hrow .writeSingleRegister, hrow .slReadExceptionStatus, hrow .slDiagnostics,
    hrow .writeMultipleCoils, hrow .writeMultipleRegisters⟩

/-- Settles O31: both ends of a DECODE set VALID. -/
theorem everyInstructionCompletes : Obligations.EveryInstructionCompletes := by
  intro s i
  rw [exec_eq_finish]
  cases outcomeOf i with
  | ok m => exact ⟨_, s.finish_ok m, rfl⟩
  | error e => exact ⟨_, s.finish_error e, rfl⟩

/-- So every step answers a next state. -/
theorem step_completes (s : State) : ∃ t, step s = .next t := by
  obtain ⟨t, hs, -⟩ := everyInstructionCompletes s (decode s.frame)
  exact ⟨t, hs⟩

/-! ### The responses, at both sides of their payload bound (42_read_bits, 43_read_registers) -/

/-- The payload of a frame begins at offset 3. -/
theorem frameOf_getD_payload (slave : Byte) (fc : FunctionCode) (b2 : Byte) (payload : List Byte) {off : Nat}
    (h : 3 ≤ off) : (frameOf slave fc (b2 :: payload)).getD off 0x00#8 = payload.getD (off - 3) 0x00#8 := by
  obtain ⟨n, rfl⟩ := Nat.exists_eq_add_of_le' h
  rfl

/-- Settles O25: offset 2 of the frame is the count, and `ceil8` of it is the length that BitUnpack needs. -/
theorem bitResponsesComplete : Obligations.BitResponsesComplete := by
  intro s slave q payload hfits
  have hrow (fc : FunctionCode) := s.finish_bitResponseDecode_fits slave fc (frame := frameOf slave fc (q :: payload))
    rfl (Nat.add_le_add_right hfits 3) fun _ _ => frameOf_getD_payload slave fc q payload
  exact ⟨hrow .readCoils, hrow .readDiscreteInputs⟩

/-- Settles O26: RegUnpack checks the byte count whole, and its pairs lie within it. -/
theorem registerResponsesComplete : Obligations.RegisterResponsesComplete := by
  intro s slave bc payload hfits
  have hlen (fc : FunctionCode) : 3 + bc.toNat ≤ (frameOf slave fc (bc :: payload)).length := by
    simp only [frameOf, List.length_cons]
    omega
  have hrow (fc : FunctionCode) := s.finish_regResponseDecode_fits slave fc (frame := frameOf slave fc (bc :: payload))
    rfl (hlen fc) fun _ _ => frameOf_getD_payload slave fc bc payload
  exact ⟨hrow .readHoldingRegisters, hrow .readInputRegister⟩

/-! ### The writes and DIAG: two 16-bit fields at offsets 2 and 4 (44_writes, 45_serial_line) -/

theorem State.succeed_addrValMessage (s : State) (slave : Byte) (fc : FunctionCode) (addr v : Word) :
    s.succeed (addrValMessage slave fc addr v) = s.afterAddrVal slave fc.value addr v := by
  simp [State.succeed, addrValMessage, Message.unset, State.afterAddrVal, fillValues_singleton]

theorem State.succeed_status8Message (s : State) (slave : Byte) (fc : FunctionCode) (status : Byte) :
    s.succeed (status8Message slave fc status) = s.afterStatus slave fc.value status := by
  simp [State.succeed, status8Message, Message.unset, State.afterStatus, fillValues_singleton, zext16_byte]

theorem State.succeed_diagMessage (s : State) (slave : Byte) (fc : FunctionCode) (sub dat : Word) :
    s.succeed (diagMessage slave fc sub dat) = s.afterDiag slave fc.value sub dat := by
  simp [State.succeed, diagMessage, Message.unset, State.afterDiag, fillValues_pair]

/-- A body of four bytes or more holds both fields, whatever the message made of them. -/
theorem State.finish_two_fields_fits (s : State) (slave : Byte) (fc : FunctionCode) (msg : Word → Word → Message)
    (b2 b3 b4 b5 : Byte) (rest : List Byte) :
    s.finish (do
      let a ← memRead16 (frameOf slave fc (b2 :: b3 :: b4 :: b5 :: rest)) 2
      let n ← memRead16 (frameOf slave fc (b2 :: b3 :: b4 :: b5 :: rest)) 4
      return msg a n) = .next (s.succeed (msg (pairOf b2 b3) (pairOf b4 b5))) := by
  have hlen : 6 ≤ (frameOf slave fc (b2 :: b3 :: b4 :: b5 :: rest)).length := Nat.le_add_left 6 rest.length
  rw [two_fields_of_long hlen]
  rfl

/-- A shorter body fails at one of them. -/
theorem State.finish_two_fields_truncated (s : State) (slave : Byte) (fc : FunctionCode)
    (msg : Word → Word → Message) {body : List Byte} (hcut : body.length < 4) :
    s.finish (do
      let a ← memRead16 (frameOf slave fc body) 2
      let n ← memRead16 (frameOf slave fc body) 4
      return msg a n) = .next (s.afterFailure .truncated) := by
  have hlen : (frameOf slave fc body).length < 6 := Nat.add_lt_add_right hcut 2
  rw [two_fields_of_short hlen, State.finish_failure]
  rfl

/-- Settles O27: the single writes end in the row ADDR_VAL, the multiple writes in ADDR_QTY. -/
theorem writesComplete : Obligations.WritesComplete := by
  intro s slave b2 b3 b4 b5 rest
  have hval (fc : FunctionCode) := s.finish_two_fields_fits slave fc (addrValMessage slave fc) b2 b3 b4 b5 rest
  have hqty (fc : FunctionCode) := s.finish_two_fields_fits slave fc (addrQtyMessage slave fc) b2 b3 b4 b5 rest
  simp only [State.succeed_addrValMessage] at hval
  simp only [State.succeed_addrQtyMessage] at hqty
  exact ⟨hval .writeSingleCoil, hval .writeSingleRegister, hqty .writeMultipleCoils, hqty .writeMultipleRegisters⟩

/-- Settles O28: RES ends in the row STATUS8, DIAG in the row DIAG. -/
theorem serialLineCompletes : Obligations.SerialLineCompletes := by
  intro s slave b2 b3 b4 b5 rest
  have hres := s.finish_ok (status8Message slave .slReadExceptionStatus b2)
  have hdiag := s.finish_two_fields_fits slave .slDiagnostics (diagMessage slave .slDiagnostics) b2 b3 b4 b5 rest
  rw [State.succeed_status8Message] at hres
  rw [State.succeed_diagMessage] at hdiag
  exact ⟨hres, hdiag⟩

/-- Settles O30: each bound is the length at which one of the row's reads leaves the frame. -/
theorem truncatedInstructionsFail : Obligations.TruncatedInstructionsFail := by
  intro s slave b2 bytes
  refine ⟨fun hcut => ?_, fun hcut => ?_, fun hcut => ?_⟩
  · have hrow (fc : FunctionCode) := s.finish_bitResponseDecode_truncated slave fc
      (frame := frameOf slave fc (b2 :: bytes)) rfl (Nat.le_add_left 3 bytes.length) (Nat.add_lt_add_right hcut 3)
    exact ⟨hrow .readCoils, hrow .readDiscreteInputs⟩
  · have hlen (fc : FunctionCode) : (frameOf slave fc (b2 :: bytes)).length < 3 + b2.toNat := by
      simp only [frameOf, List.length_cons]
      omega
    have hrow (fc : FunctionCode) := s.finish_regResponseDecode_truncated slave fc rfl (hlen fc)
    exact ⟨hrow .readHoldingRegisters, hrow .readInputRegister⟩
  · have hrow (fc : FunctionCode) (msg : Word → Word → Message) := s.finish_two_fields_truncated slave fc msg hcut
    exact ⟨hrow .writeSingleCoil (addrValMessage slave _), hrow .writeSingleRegister (addrValMessage slave _),
      hrow .slDiagnostics (diagMessage slave _), hrow .writeMultipleCoils (addrQtyMessage slave _),
      hrow .writeMultipleRegisters (addrQtyMessage slave _)⟩

/-! ### The same of a presented frame -/

/-- The step on a frame of at least three bytes runs the row its byte 1 selects. -/
theorem step_eq_exec_decodeLong {s : State} (h : 3 ≤ s.len) :
    step s = exec (decodeLong (s.byte 0) (s.byte 1) (s.byte 2) (s.frame.drop 3)) s := by
  rw [step_long h, exec_eq_finish]

/-- From offset 3 on, a frame of at least six bytes has three bytes. -/
theorem State.drop_three_frame {s : State} (h : 6 ≤ s.len) :
    s.frame.drop 3 = s.byte 3 :: s.byte 4 :: s.byte 5 :: s.frame.drop 6 := by
  simp [List.drop_eq_getElem_cons, show 3 < s.len by omega, show 4 < s.len by omega, show 5 < s.len by omega]

/-- Settles O16: a byte 1 that is no legal value selects the row ILLEGAL. -/
theorem illegalFrameFails : Obligations.IllegalFrameFails := by
  intro s hlen hb1
  exact step_unrecognised hlen fun h => hb1 ((mem_legalCodes_iff _).2 h)

/-- The body of a frame of three to five bytes is shorter than two fields. -/
theorem State.length_body_lt_four {s : State} (h : s.len < 6) (hlen : 3 ≤ s.len) :
    (s.byte 2 :: s.frame.drop 3).length < 4 := by
  rw [List.length_cons, List.length_drop, State.length_frame]
  omega

/-- Settles O20: byte 1 selects the row of the write, and six bytes of frame are four bytes of body. -/
theorem writeFrameResult : Obligations.WriteFrameResult := by
  intro s code hb1
  refine ⟨fun hcode hlen => ?_, fun hcode hlen => ?_, fun hcode hlen hcut => ?_⟩
  · obtain ⟨hwsc, hwsr, -, -⟩ :=
      writesComplete s (s.byte 0) (s.byte 2) (s.byte 3) (s.byte 4) (s.byte 5) (s.frame.drop 6)
    rw [step_eq_exec_decodeLong (by omega), State.drop_three_frame hlen, hb1]
    simp only [List.mem_cons, List.not_mem_nil, or_false] at hcode
    rcases hcode with rfl | rfl
    · exact hwsc
    · exact hwsr
  · obtain ⟨-, -, hwmc, hwmr⟩ :=
      writesComplete s (s.byte 0) (s.byte 2) (s.byte 3) (s.byte 4) (s.byte 5) (s.frame.drop 6)
    rw [step_eq_exec_decodeLong (by omega), State.drop_three_frame hlen, hb1]
    simp only [List.mem_cons, List.not_mem_nil, or_false] at hcode
    rcases hcode with rfl | rfl
    · exact hwmc
    · exact hwmr
  · obtain ⟨-, -, htwo⟩ := truncatedInstructionsFail s (s.byte 0) (s.byte 2) (s.byte 2 :: s.frame.drop 3)
    obtain ⟨hwsc, hwsr, -, hwmc, hwmr⟩ := htwo (State.length_body_lt_four hcut hlen)
    rw [step_eq_exec_decodeLong hlen, hb1]
    simp only [List.mem_cons, List.not_mem_nil, or_false] at hcode
    rcases hcode with rfl | rfl | rfl | rfl
    · exact hwsc
    · exact hwsr
    · exact hwmc
    · exact hwmr

/-- Settles O21: byte 1 selects RES, which needs byte 2 alone, or DIAG, which needs four bytes of body. -/
theorem serialLineResult : Obligations.SerialLineResult := by
  intro s
  refine ⟨fun hb1 hlen => ?_, fun hb1 hlen => ?_, fun hb1 hlen hcut => ?_⟩
  · rw [step_readExceptionStatus hlen hb1, State.succeed_status8Message]
    rfl
  · obtain ⟨-, hdiag⟩ := serialLineCompletes s (s.byte 0) (s.byte 2) (s.byte 3) (s.byte 4) (s.byte 5) (s.frame.drop 6)
    rw [step_eq_exec_decodeLong (by omega), State.drop_three_frame hlen, hb1]
    exact hdiag
  · obtain ⟨-, -, htwo⟩ := truncatedInstructionsFail s (s.byte 0) (s.byte 2) (s.byte 2 :: s.frame.drop 3)
    obtain ⟨-, -, hdiag, -⟩ := htwo (State.length_body_lt_four hcut hlen)
    rw [step_eq_exec_decodeLong hlen, hb1]
    exact hdiag

end Sys2Proof.Machine

/-! ## The maps and the numbers, and the step as the spec's own procedure (40_envelope_dispatch, 41_exception_decode) -/

namespace Sys2Proof.Machine

/-! ### FcMap and ErrMap -/

/-- FcMap gives back every variant but the sentinel, from its number (R110). -/
theorem fcMap_value {fc : FunctionCode} (hfc : fc ≠ .undefined) : fcMap fc.value = .ok fc := by
  cases fc with
  | undefined => exact absurd rfl hfc
  | _ => rfl

theorem fcMap_of_not_mem {c : Byte} (h : c ∉ recognisedNumbers) : fcMap c = .error .undefinedFunctionCode := by
  have hmap : recognisedNumbers = FunctionCode.recognised.map FunctionCode.value := rfl
  have hnone : FunctionCode.recognised.find? (fun f => f.value == c) = none := by simpa [hmap] using h
  rw [fcMap, hnone]

theorem fcMap_error_iff {c : Byte} : fcMap c = .error .undefinedFunctionCode ↔ c ∉ recognisedNumbers := by
  refine ⟨fun h hc => ?_, fcMap_of_not_mem⟩
  obtain ⟨fc, hfc, rfl⟩ := exists_functionCode_of_mem_recognisedNumbers hc
  rw [fcMap_value hfc] at h
  cases h

/-- Settles O12: a recognised number is that of a variant, and a DECODE reports UndefinedFunctionCode for exactly the
codes that are none (R214). -/
theorem functionCodeMap : Obligations.FunctionCodeMap := by
  refine ⟨fun c => ⟨fun hc => ?_, fcMap_of_not_mem⟩, fun s hlen => ?_⟩
  · obtain ⟨fc, hfc, rfl⟩ := exists_functionCode_of_mem_recognisedNumbers hc
    exact ⟨fc, fcMap_value hfc, rfl, hfc⟩
  · obtain ⟨t, hs, -, hundefined, -⟩ := failureCauses s
    exact ⟨t, hs, by rw [hundefined, fcMap_error_iff, maskedCode, and_iff_right hlen]⟩

/-- No two known exception codes share a number. -/
theorem errorCodeOf_value (k : KnownError) : errorCodeOf k.value = .known k := by
  cases k <;> rfl

theorem errorCodeOf_of_not_mem {e : Byte} (h : e ∉ knownErrorNumbers) : errorCodeOf e = .unknown e := by
  have hnone : KnownError.all.find? (fun k => k.value == e) = none := by
    simpa [mem_knownErrorNumbers_iff] using h
  rw [errorCodeOf, hnone]

/-- Settles O13: ErrMap keeps the byte, and as a sum it is the variant whose number the byte is, if there is one. -/
theorem exceptionCodeMap : Obligations.ExceptionCodeMap := by
  intro e
  refine ⟨Prod.ext (errMap_fst e) ?_, fun he => ?_, errorCodeOf_of_not_mem⟩
  · simpa using errMap_snd e
  · obtain ⟨k, -, rfl⟩ := mem_knownErrorNumbers_iff.1 he
    exact ⟨k, errorCodeOf_value k, rfl⟩

/-! ### The numbers of STATUS and SHAPE -/

/-- The STATUS value of a number (10_state R22). -/
def Status.ofCode : BitVec 2 → Status
  | 0#2 => .ok
  | 1#2 => .tooShort
  | 2#2 => .undefinedFc
  | _ => .truncated

theorem Status.ofCode_code (st : Status) : Status.ofCode st.code = st := by cases st <;> rfl

theorem Status.code_ofCode (n : BitVec 2) : (Status.ofCode n).code = n := by revert n; decide

/-- The SHAPE value of a number (10_state R30). -/
def Shape.ofCode : BitVec 3 → Shape
  | 0#3 => .none
  | 1#3 => .exc
  | 2#3 => .addrQty
  | 3#3 => .addrVal
  | 4#3 => .bits
  | 5#3 => .regs
  | 6#3 => .status8
  | _ => .diag

theorem Shape.ofCode_code (sh : Shape) : Shape.ofCode sh.code = sh := by cases sh <;> rfl

theorem Shape.code_ofCode (n : BitVec 3) : (Shape.ofCode n).code = n := by revert n; decide

/-- Settles O14: the values and the numbers of each register are in bijection, by `ofCode`. -/
theorem statusAndShapeNumbers : Obligations.StatusAndShapeNumbers := by
  refine ⟨fun n => ⟨.ofCode n, Status.code_ofCode n, ?_⟩, fun n => ⟨.ofCode n, Shape.code_ofCode n, ?_⟩, ?_⟩
  · rintro st rfl
    exact (Status.ofCode_code st).symm
  · rintro sh rfl
    exact (Shape.ofCode_code sh).symm
  · decide

/-! ### The decode as R101 writes it, and the step -/

/-- R101 with the flag set: the exception decoder, which reads byte 2. -/
theorem decodeMessage_of_flag {rawFn : Byte} (hflag : rawFn.getLsbD 7 = true) (slave b2 : Byte) (rest : List Byte) :
    decodeMessage (slave :: rawFn :: b2 :: rest) =
      (fcMap (maskedCode rawFn) >>= fun fc => .ok (excMessage slave fc b2)) := by
  have hlen : ¬(slave :: rawFn :: b2 :: rest).length < Config.minLen := Nat.not_lt.2 (Nat.le_add_left 3 rest.length)
  rw [decodeMessage, if_neg hlen]
  exact if_pos ((exceptionFlag_eq rawFn).trans hflag)

/-- R101 with the flag clear: one arm of Table R105. -/
theorem decodeMessage_of_not_flag {rawFn : Byte} (hflag : rawFn.getLsbD 7 = false) (slave b2 : Byte)
    (rest : List Byte) :
    decodeMessage (slave :: rawFn :: b2 :: rest) =
      (fcMap rawFn >>= fun fc => arm fc (slave :: rawFn :: b2 :: rest) slave) := by
  have hlen : ¬(slave :: rawFn :: b2 :: rest).length < Config.minLen := Nat.not_lt.2 (Nat.le_add_left 3 rest.length)
  have hclear : ¬exceptionFlag rawFn = true := by rw [exceptionFlag_eq, hflag]; decide
  rw [decodeMessage, if_neg hlen]
  exact if_neg hclear

/-- The row that byte 1 and the length select is the arm of Table R105, one case a code. For a read code, six bytes are
the request on both sides and every other length the response. -/
theorem outcomeOf_decodeLong_eq_arm {fc : FunctionCode} (hfc : fc ≠ .undefined) (slave b2 : Byte) (rest : List Byte) :
    outcomeOf (decodeLong slave fc.value b2 rest) = arm fc (frameOf slave fc (b2 :: rest)) slave := by
  have hsix (hne : rest.length ≠ 3) : (frameOf slave fc (b2 :: rest)).length ≠ Config.reqLen :=
    fun h => hne (Nat.add_right_cancel (m := 3) h)
  cases fc with
  | undefined => exact absurd rfl hfc
  | readCoils | readDiscreteInputs =>
    by_cases hlen : rest.length = 3
    · obtain ⟨b3, b4, b5, rfl⟩ := List.length_eq_three.1 hlen
      exact outcomeOf_decodeLong_request (by decide) slave b2 b3 b4 b5
    · exact (outcomeOf_decodeLong_bitResponse (by decide) slave b2 hlen).trans (if_neg (hsix hlen)).symm
  | readHoldingRegisters | readInputRegister =>
    by_cases hlen : rest.length = 3
    · obtain ⟨b3, b4, b5, rfl⟩ := List.length_eq_three.1 hlen
      exact outcomeOf_decodeLong_request (by decide) slave b2 b3 b4 b5
    · exact (outcomeOf_decodeLong_registerResponse (by decide) slave b2 hlen).trans (if_neg (hsix hlen)).symm
  | _ => rfl

/-- An unrecognised code raises in FcMap on both paths of R101. -/
theorem decodeMessage_unrecognised {rawFn : Byte} (hcode : maskedCode rawFn ∉ recognisedNumbers) (slave b2 : Byte)
    (rest : List Byte) : decodeMessage (slave :: rawFn :: b2 :: rest) = .error .undefinedFunctionCode := by
  cases hflag : rawFn.getLsbD 7 with
  | true => rw [decodeMessage_of_flag hflag, fcMap_of_not_mem hcode, error_bind]
  | false =>
    have hraw : rawFn ∉ recognisedNumbers := fun h =>
      hcode (masked_mem_recognisedNumbers_of_mem_legalCodes _ (List.mem_append_left _ h))
    rw [decodeMessage_of_not_flag hflag, fcMap_of_not_mem hraw, error_bind]

/-- The instruction a frame decodes to answers what R101 says of its bytes: byte 1 holds no recognised code, or one
plain or flagged. -/
theorem outcomeOf_decode (frame : List Byte) : outcomeOf (decode frame) = decodeMessage frame := by
  match frame with
  | [] | [_] | [_, _] => rfl
  | slave :: rawFn :: b2 :: rest =>
    rw [decode_long]
    by_cases hcode : maskedCode rawFn ∈ recognisedNumbers
    · obtain ⟨fc, hfc, hval⟩ := exists_functionCode_of_mem_recognisedNumbers hcode
      rcases eq_masked_or_eq_flagged rawFn with hplain | hflagged
      · obtain rfl : rawFn = fc.value := hplain.trans hval.symm
        rw [decodeMessage_of_not_flag fc.value_getLsbD_seven, fcMap_value hfc, ok_bind,
          outcomeOf_decodeLong_eq_arm hfc, frameOf]
      · obtain rfl : rawFn = fc.value ||| 0x80#8 := hflagged.trans (congrArg (· ||| 0x80#8) hval.symm)
        rw [decodeMessage_of_flag (by simp), ← hval, fcMap_value hfc, ok_bind, outcomeOf_decodeLong_exception hfc]
    · rw [decodeMessage_unrecognised hcode, decodeLong_illegal (mt (mem_legalCodes_iff rawFn).1 hcode), outcomeOf]

/-- Settles O36: the meaning of the instruction a frame decodes to is the procedure on its bytes. -/
theorem stepIsTheSpecProcedure : Obligations.StepIsTheSpecProcedure := fun s => by
  rw [step_eq_finish, outcomeOf_decode]

end Sys2Proof.Machine

/-! ## The frame buffer: one canonical form, and the host's overwrite (20_memory) -/

namespace Sys2Proof.Machine

/-- In canonical form the listed cells are exactly what the reads tell: an offset that reads other than as unlisted is
listed with that byte, and no other cell is. -/
theorem Memory.mem_iff_read {m : Memory} (h : Memory.wf m) (off : Nat) (v : Byte) :
    (off, v) ∈ m ↔ Memory.read m off = v ∧ v ≠ Memory.unlisted := by
  obtain ⟨hsorted, hlisted⟩ := h
  induction m with
  | nil => simp only [List.not_mem_nil, Memory.read, false_iff, not_and, not_not]; exact Eq.symm
  | cons c m ih =>
    obtain ⟨a, b⟩ := c
    obtain ⟨habove, hsorted⟩ := List.pairwise_cons.1 hsorted
    obtain ⟨hb, hlisted⟩ := List.forall_mem_cons.1 hlisted
    have ih := ih hsorted hlisted
    by_cases hoff : a = off
    · subst hoff
      have hnot : (a, v) ∉ m := fun hmem => Nat.lt_irrefl a (habove _ hmem)
      simp only [Memory.read, if_true, List.mem_cons, hnot, or_false, Prod.mk.injEq, true_and]
      exact ⟨fun h => ⟨h.symm, ne_of_eq_of_ne h hb⟩, fun ⟨h, _⟩ => h.symm⟩
    · have hne : (off, v) ≠ (a, b) := fun he => hoff (congrArg Prod.fst he).symm
      simp only [Memory.read, if_neg hoff, List.mem_cons, hne, false_or, ih]

/-- Settles O3: both lists hold the cells that the reads tell, and strictly rising offsets leave one order for them. -/
theorem canonicalMemoryUnique : Obligations.CanonicalMemoryUnique := by
  intro m n hm hn hread
  have hmem (c : Host.Cell) : c ∈ m ↔ c ∈ n := by
    obtain ⟨off, v⟩ := c
    rw [Memory.mem_iff_read hm, Memory.mem_iff_read hn, hread]
  have hirrefl : ∀ {c d : Host.Cell}, c.1 < d.1 → c ≠ d := fun h he => Nat.lt_irrefl _ (he ▸ h)
  have hperm : m.Perm n :=
    (List.perm_ext_iff_of_nodup (hm.1.imp hirrefl) (hn.1.imp hirrefl)).2 hmem
  exact hperm.eq_of_pairwise (fun c d _ _ hcd hdc => absurd hdc (Nat.lt_asymm hcd)) hm.1 hn.1

theorem State.frame_overwrite {s : State} (h : Memory.wf s.mem) {off : Nat} (hoff : off < s.len) (b : Byte) :
    (s.overwrite off b).frame = s.frame.set off b := by
  apply List.ext_getElem?
  intro x
  have hmem : (s.overwrite off b).mem = Memory.write s.mem off b := by rw [State.overwrite, if_pos hoff]
  rw [State.getElem?_frame, State.overwrite_len, hmem, Memory.read_write h, List.getElem?_set, State.getElem?_frame]
  by_cases hx : x = off
  · subst hx
    simp [hoff]
  · simp [hx, Ne.symm hx]

/-- Settles O5: inside the frame the overwrite is one write to the buffer, outside it does nothing. -/
theorem overwriteSeenByNextFrame : Obligations.OverwriteSeenByNextFrame :=
  fun _ _ b => ⟨fun h hoff => State.frame_overwrite h hoff b, fun hoff => if_neg (Nat.not_lt.2 hoff)⟩

end Sys2Proof.Machine

/-! ## What a step can end in: the rows of Table R34 (10_state, 40_envelope_dispatch) -/

namespace Sys2Proof.Machine

/-- The row of Table R34 that a DECODE of the frame in `s` ends in, with its registers and, for a success, the byte 1
and the length that select it. The causes of a failure are `failureCauses`. -/
inductive DecodesTo (s : State) : State → Prop where
  | failure (e : DecodeError) : DecodesTo s (s.afterFailure (failureStatus e))
  | exception {code : Byte} (hlen : 3 ≤ s.len) (hcode : code ∈ recognisedNumbers)
      (hb1 : s.byte 1 = code ||| 0x80#8) : DecodesTo s (s.afterException (s.byte 0) code (s.byte 2))
  | request (hlen : s.len = 6) (hcode : s.byte 1 ∈ [0x01#8, 0x02#8, 0x03#8, 0x04#8]) :
      DecodesTo s (s.afterAddrQty (s.byte 0) (s.byte 1) (pairOf (s.byte 2) (s.byte 3)) (pairOf (s.byte 4) (s.byte 5)))
  | bits (hlen : 3 ≤ s.len) (hne : s.len ≠ 6) (hcode : s.byte 1 ∈ [0x01#8, 0x02#8])
      (hfits : ((s.byte 2).toNat + 7) / 8 ≤ s.len - 3) :
      DecodesTo s (s.afterBits (s.byte 0) (s.byte 1) (s.byte 2) s.byte)
  | registers (hlen : 3 ≤ s.len) (hne : s.len ≠ 6) (hcode : s.byte 1 ∈ [0x03#8, 0x04#8])
      (hfits : 3 + (s.byte 2).toNat ≤ s.len) :
      DecodesTo s (s.afterRegs (s.byte 0) (s.byte 1) (s.byte 2) s.byte)
  | singleWrite (hlen : 6 ≤ s.len) (hcode : s.byte 1 ∈ [0x05#8, 0x06#8]) :
      DecodesTo s (s.afterAddrVal (s.byte 0) (s.byte 1) (pairOf (s.byte 2) (s.byte 3)) (pairOf (s.byte 4) (s.byte 5)))
  | multipleWrite (hlen : 6 ≤ s.len) (hcode : s.byte 1 ∈ [0x0F#8, 0x10#8]) :
      DecodesTo s (s.afterAddrQty (s.byte 0) (s.byte 1) (pairOf (s.byte 2) (s.byte 3)) (pairOf (s.byte 4) (s.byte 5)))
  | status (hlen : 3 ≤ s.len) (hcode : s.byte 1 = 0x07#8) :
      DecodesTo s (s.afterStatus (s.byte 0) 0x07#8 (s.byte 2))
  | diagnostics (hlen : 6 ≤ s.len) (hcode : s.byte 1 = 0x08#8) :
      DecodesTo s (s.afterDiag (s.byte 0) 0x08#8 (pairOf (s.byte 2) (s.byte 3)) (pairOf (s.byte 4) (s.byte 5)))

/-! ### One class of byte 1 at a time -/

theorem exists_decodesTo_of_bitRead {s : State} (hlen : 3 ≤ s.len) (hcode : s.byte 1 ∈ [0x01#8, 0x02#8]) :
    ∃ t, step s = .next t ∧ DecodesTo s t := by
  by_cases hsix : s.len = 6
  · have hread := List.mem_append_left [0x03#8, 0x04#8] hcode
    exact ⟨_, readRequestResult s _ hread hsix rfl, .request hsix hread⟩
  · obtain ⟨hok, hfail⟩ := bitResponseResult s _ hcode hlen hsix rfl
    by_cases hfits : ((s.byte 2).toNat + 7) / 8 ≤ s.len - 3
    · exact ⟨_, hok hfits, .bits hlen hsix hcode hfits⟩
    · exact ⟨_, hfail (Nat.lt_of_not_le hfits), .failure .truncatedPayload⟩

theorem exists_decodesTo_of_registerRead {s : State} (hlen : 3 ≤ s.len) (hcode : s.byte 1 ∈ [0x03#8, 0x04#8]) :
    ∃ t, step s = .next t ∧ DecodesTo s t := by
  by_cases hsix : s.len = 6
  · have hread := List.mem_append_right [0x01#8, 0x02#8] hcode
    exact ⟨_, readRequestResult s _ hread hsix rfl, .request hsix hread⟩
  · obtain ⟨hok, hfail⟩ := registerResponseResult s _ hcode hlen hsix rfl
    by_cases hfits : 3 + (s.byte 2).toNat ≤ s.len
    · exact ⟨_, hok hfits, .registers hlen hsix hcode hfits⟩
    · exact ⟨_, hfail (Nat.lt_of_not_le hfits), .failure .truncatedPayload⟩

theorem exists_decodesTo_of_write {s : State} (hlen : 3 ≤ s.len)
    (hcode : s.byte 1 ∈ [0x05#8, 0x06#8] ∨ s.byte 1 ∈ [0x0F#8, 0x10#8]) : ∃ t, step s = .next t ∧ DecodesTo s t := by
  obtain ⟨hsingle, hmultiple, hfail⟩ := writeFrameResult s _ rfl
  by_cases hsix : 6 ≤ s.len
  · rcases hcode with hcode | hcode
    · exact ⟨_, hsingle hcode hsix, .singleWrite hsix hcode⟩
    · exact ⟨_, hmultiple hcode hsix, .multipleWrite hsix hcode⟩
  · exact ⟨_, hfail (List.mem_append.2 hcode) hlen (Nat.lt_of_not_le hsix), .failure .truncatedPayload⟩

theorem exists_decodesTo_of_serialLine {s : State} (hlen : 3 ≤ s.len)
    (hcode : s.byte 1 = 0x07#8 ∨ s.byte 1 = 0x08#8) : ∃ t, step s = .next t ∧ DecodesTo s t := by
  obtain ⟨hres, hdiag, hfail⟩ := serialLineResult s
  rcases hcode with hcode | hcode
  · exact ⟨_, hres hcode hlen, .status hlen hcode⟩
  · by_cases hsix : 6 ≤ s.len
    · exact ⟨_, hdiag hcode hsix, .diagnostics hsix hcode⟩
    · exact ⟨_, hfail hcode hlen (Nat.lt_of_not_le hsix), .failure .truncatedPayload⟩

/-- The rows of Table R105 for a recognised code without the flag. -/
theorem recognisedNumbers_classes : ∀ b ∈ recognisedNumbers,
    b ∈ [0x01#8, 0x02#8] ∨ b ∈ [0x03#8, 0x04#8] ∨ (b ∈ [0x05#8, 0x06#8] ∨ b ∈ [0x0F#8, 0x10#8]) ∨
      b = 0x07#8 ∨ b = 0x08#8 := by
  decide

/-- A step answers the row that its frame decodes to: SHORT, an unrecognised code, one of the classes of a plain code,
or a flagged code. -/
theorem exists_decodesTo (s : State) : ∃ t, step s = .next t ∧ DecodesTo s t := by
  by_cases hlen : 3 ≤ s.len
  · by_cases hcode : s.byte 1 &&& 0x7F#8 ∈ recognisedNumbers
    · rcases eq_masked_or_eq_flagged (s.byte 1) with hplain | hflagged
      · rw [← hplain] at hcode
        rcases recognisedNumbers_classes _ hcode with h | h | h | h
        · exact exists_decodesTo_of_bitRead hlen h
        · exact exists_decodesTo_of_registerRead hlen h
        · exact exists_decodesTo_of_write hlen h
        · exact exists_decodesTo_of_serialLine hlen h
      · exact ⟨_, exceptionResponseResult s _ hcode hlen hflagged, .exception hlen hcode hflagged⟩
    · exact ⟨_, step_unrecognised hlen hcode, .failure .undefinedFunctionCode⟩
  · exact ⟨_, step_short (Nat.lt_of_not_le hlen), .failure .tooShort⟩

/-- Everything a step can do. -/
theorem decodesTo_of_step {s t : State} (h : step s = .next t) : DecodesTo s t := by
  obtain ⟨t', h', ht⟩ := exists_decodesTo s
  obtain rfl := Host.Outcome.next.inj (h.symm.trans h')
  exact ht

/-! ### The statements -/

/-- Settles O38: every failure ends in the row "failure", and no other row has a STATUS other than OK. -/
theorem failureLeavesNoMessage : Obligations.FailureLeavesNoMessage := by
  intro s t h hstatus
  cases decodesTo_of_step h with
  | failure e => rfl
  | _ => exact absurd rfl hstatus

theorem pairOf_toNat (hi lo : Byte) : (pairOf hi lo).toNat = hi.toNat * 256 + lo.toNat := by
  rw [pairOf_eq_be16, be16_toNat]

theorem byte_ofNat_toNat (b : Byte) : (BitVec.ofNat 16 b.toNat).toNat = b.toNat := by
  have := b.isLt
  rw [BitVec.toNat_ofNat]
  omega

/-- Settles O42: one case a row of Table R34. -/
theorem addressAndQuantityRegisters : Obligations.AddressAndQuantityRegisters := by
  intro s
  obtain ⟨t, hs, ht⟩ := exists_decodesTo s
  refine ⟨t, hs, ?_⟩
  cases ht with
  | request | multipleWrite => exact ⟨fun _ => pairOf_toNat _ _, nofun, fun _ => pairOf_toNat _ _, nofun, nofun⟩
  | singleWrite => exact ⟨fun _ => pairOf_toNat _ _, nofun, nofun, nofun, fun _ _ => rfl⟩
  | bits => exact ⟨nofun, fun _ _ => rfl, nofun, fun _ => byte_ofNat_toNat _, nofun⟩
  | _ => exact ⟨nofun, fun _ _ => rfl, nofun, nofun, fun _ _ => rfl⟩

/-- Settles O45: six bytes are the request; apart from it only the multiple writes end in ADDR_QTY. -/
theorem lengthSixSelectsRequest : Obligations.LengthSixSelectsRequest := by
  intro s hread hlen
  by_cases hsix : s.len = 6
  · exact ⟨_, readRequestResult s _ hread hsix rfl, fun _ => ⟨rfl, rfl⟩, absurd hsix⟩
  · obtain ⟨t, hs, ht⟩ := exists_decodesTo s
    refine ⟨t, hs, fun h => absurd h hsix, fun _ => ?_⟩
    have hdisjoint : ∀ b ∈ [0x01#8, 0x02#8, 0x03#8, 0x04#8], b ∉ [0x0F#8, 0x10#8] := by decide
    cases ht with
    | request h => exact absurd h hsix
    | multipleWrite _ hcode => exact absurd hcode (hdisjoint _ hread)
    | _ => nofun

end Sys2Proof.Machine

/-! ## The invariant of the registers and of the frame buffer (10_state R35) -/

namespace Sys2Proof.Machine

/-! ### VAL beyond the count -/

@[simp] theorem Values.zero_getElem (i : Fin Config.valSlots) : Values.zero[i] = 0x0000#16 := by
  simp [Values.zero]

theorem oneVal_getElem_of_le (v : Word) {i : Fin Config.valSlots} (h : 1 ≤ i.val) : (oneVal v)[i] = 0x0000#16 := by
  simp only [oneVal, Fin.getElem_fin, Vector.getElem_ofFn]
  exact if_neg (by omega)

theorem twoVal_getElem_of_le (v w : Word) {i : Fin Config.valSlots} (h : 2 ≤ i.val) :
    (twoVal v w)[i] = 0x0000#16 := by
  simp only [twoVal, Fin.getElem_fin, Vector.getElem_ofFn]
  rw [if_neg (by omega), if_neg (by omega)]

theorem bitsVal_getElem_of_le (byteAt : Nat → Byte) {q : Nat} {i : Fin Config.valSlots} (h : q ≤ i.val) :
    (bitsVal byteAt q)[i] = 0x0000#16 := by
  simp [bitsVal, Nat.not_lt.2 h]

theorem bitsVal_getElem_zero_or_one (byteAt : Nat → Byte) (q : Nat) (i : Fin Config.valSlots) :
    (bitsVal byteAt q)[i] = 0x0000#16 ∨ (bitsVal byteAt q)[i] = 0x0001#16 := by
  simp only [bitsVal, Fin.getElem_fin, Vector.getElem_ofFn]
  split
  · exact .inr rfl
  · exact .inl rfl

theorem regsVal_getElem_of_le (byteAt : Nat → Byte) {n : Nat} {i : Fin Config.valSlots} (h : n ≤ i.val) :
    (regsVal byteAt n)[i] = 0x0000#16 := by
  simp [regsVal, Nat.not_lt.2 h]

/-- NVAL of REGS holds half the byte count without loss. -/
theorem half_toNat (bc : Byte) : (BitVec.ofNat 8 (bc.toNat / 2)).toNat = bc.toNat / 2 := by
  have := bc.isLt
  rw [BitVec.toNat_ofNat]
  omega

/-! ### The rows of Table R34 meet the invariants -/

/-- The part of the invariants that tells one row of a message without the flag from another: the counts, VAL, and the
registers the shape leaves unset. -/
structure State.PayloadInv (t : State) : Prop where
  bits_count : t.shape = .bits → t.nval.toNat = t.qty.toNat ∧ t.nval = t.bcnt
  bits_zero_one : t.shape = .bits → ∀ i : Fin Config.valSlots, t.val[i] = 0x0000#16 ∨ t.val[i] = 0x0001#16
  beyond_count : ∀ i : Fin Config.valSlots, t.nval.toNat ≤ i.val → t.val[i] = 0x0000#16
  counts : (t.shape = .regs → t.nval.toNat = t.bcnt.toNat / 2) ∧
    (t.shape = .addrVal ∨ t.shape = .status8 → t.nval = 0x01#8) ∧ (t.shape = .diag → t.nval = 0x02#8) ∧
    (t.shape = .none ∨ t.shape = .exc ∨ t.shape = .addrQty → t.nval = 0x00#8)
  defaults : (t.shape ≠ .addrQty ∧ t.shape ≠ .addrVal → t.addr = 0x0000#16) ∧
    (t.shape ≠ .addrQty ∧ t.shape ≠ .bits → t.qty = 0x0000#16) ∧
    (t.shape ≠ .bits ∧ t.shape ≠ .regs → t.bcnt = 0x00#8)

theorem recognisedNumbers_getLsbD_seven : ∀ b ∈ recognisedNumbers, b.getLsbD 7 = false := by decide

/-- A successful message without the flag meets the invariants if its payload does. -/
theorem State.ResultInv.of_payload {t : State} (hvalid : t.valid = true) (hstatus : t.status = .ok)
    (hfc : t.fc ∈ recognisedNumbers) (hshape : t.shape ≠ .none ∧ t.shape ≠ .exc)
    (herr : t.hasErr = false ∧ t.errCode = 0x00#8 ∧ t.errUnk = false) (hpayload : t.PayloadInv) : t.ResultInv := by
  obtain ⟨hflag, hcode, hunk⟩ := herr
  exact {
    idle := fun h => nomatch hvalid.symm.trans h
    failed := absurd hstatus
    succeeded := fun _ _ => ⟨hshape.1, hfc⟩
    exception_iff := by simp [hflag, hshape]
    exception_empty := fun h => nomatch hflag.symm.trans h
    no_error := fun _ => ⟨hcode, hunk⟩
    unknown_iff := by simp [hflag, hunk]
    bits_count := hpayload.bits_count
    bits_zero_one := hpayload.bits_zero_one
    beyond_count := hpayload.beyond_count
    fc_bit7 := recognisedNumbers_getLsbD_seven _ hfc
    counts := hpayload.counts
    defaults := hpayload.defaults }

theorem State.afterAddrQty_resultInv (s : State) (slave : Byte) {fc : Byte} (hfc : fc ∈ recognisedNumbers)
    (addr qty : Word) : (s.afterAddrQty slave fc addr qty).ResultInv := by
  refine .of_payload rfl rfl hfc ⟨nofun, nofun⟩ ⟨rfl, rfl, rfl⟩ ?_
  exact ⟨nofun, nofun, fun i _ => Values.zero_getElem i, ⟨nofun, nofun, nofun, fun _ => rfl⟩,
    fun h => absurd rfl h.1, fun h => absurd rfl h.1, fun _ => rfl⟩

theorem State.afterAddrVal_resultInv (s : State) (slave : Byte) {fc : Byte} (hfc : fc ∈ recognisedNumbers)
    (addr v : Word) : (s.afterAddrVal slave fc addr v).ResultInv := by
  refine .of_payload rfl rfl hfc ⟨nofun, nofun⟩ ⟨rfl, rfl, rfl⟩ ?_
  exact ⟨nofun, nofun, fun _ => oneVal_getElem_of_le v, ⟨nofun, fun _ => rfl, nofun, nofun⟩,
    fun h => absurd rfl h.2, fun _ => rfl, fun _ => rfl⟩

theorem State.afterBits_resultInv (s : State) (slave : Byte) {fc : Byte} (hfc : fc ∈ recognisedNumbers) (q : Byte)
    (byteAt : Nat → Byte) : (s.afterBits slave fc q byteAt).ResultInv := by
  refine .of_payload rfl rfl hfc ⟨nofun, nofun⟩ ⟨rfl, rfl, rfl⟩ ?_
  exact ⟨fun _ => ⟨(byte_ofNat_toNat q).symm, rfl⟩, fun _ => bitsVal_getElem_zero_or_one byteAt q.toNat,
    fun _ => bitsVal_getElem_of_le byteAt, ⟨nofun, nofun, nofun, nofun⟩,
    fun _ => rfl, fun h => absurd rfl h.2, fun h => absurd rfl h.1⟩

theorem State.afterRegs_resultInv (s : State) (slave : Byte) {fc : Byte} (hfc : fc ∈ recognisedNumbers) (bc : Byte)
    (byteAt : Nat → Byte) : (s.afterRegs slave fc bc byteAt).ResultInv := by
  refine .of_payload rfl rfl hfc ⟨nofun, nofun⟩ ⟨rfl, rfl, rfl⟩ ?_
  exact ⟨nofun, nofun, fun _ h => regsVal_getElem_of_le byteAt ((half_toNat bc).symm.trans_le h),
    ⟨fun _ => half_toNat bc, nofun, nofun, nofun⟩, fun _ => rfl, fun _ => rfl, fun h => absurd rfl h.2⟩

theorem State.afterStatus_resultInv (s : State) (slave : Byte) {fc : Byte} (hfc : fc ∈ recognisedNumbers)
    (status : Byte) : (s.afterStatus slave fc status).ResultInv := by
  refine .of_payload rfl rfl hfc ⟨nofun, nofun⟩ ⟨rfl, rfl, rfl⟩ ?_
  exact ⟨nofun, nofun, fun _ => oneVal_getElem_of_le _, ⟨nofun, fun _ => rfl, nofun, nofun⟩,
    fun _ => rfl, fun _ => rfl, fun _ => rfl⟩

theorem State.afterDiag_resultInv (s : State) (slave : Byte) {fc : Byte} (hfc : fc ∈ recognisedNumbers)
    (sub dat : Word) : (s.afterDiag slave fc sub dat).ResultInv := by
  refine .of_payload rfl rfl hfc ⟨nofun, nofun⟩ ⟨rfl, rfl, rfl⟩ ?_
  exact ⟨nofun, nofun, fun _ => twoVal_getElem_of_le sub dat, ⟨nofun, nofun, fun _ => rfl, nofun⟩,
    fun _ => rfl, fun _ => rfl, fun _ => rfl⟩

/-- The row "exception response": ERRUNK marks the unknown codes, and nothing is populated beside the error. -/
theorem State.afterException_resultInv (s : State) (slave : Byte) {fc : Byte} (hfc : fc ∈ recognisedNumbers)
    (code : Byte) : (s.afterException slave fc code).ResultInv where
  idle := nofun
  failed := absurd rfl
  succeeded _ _ := ⟨nofun, hfc⟩
  exception_iff := ⟨fun _ => rfl, fun _ => rfl⟩
  exception_empty _ := ⟨rfl, rfl, rfl, rfl⟩
  no_error := nofun
  unknown_iff := by simp [State.afterException]
  bits_count := nofun
  bits_zero_one := nofun
  beyond_count i _ := Values.zero_getElem i
  fc_bit7 := recognisedNumbers_getLsbD_seven _ hfc
  counts := ⟨nofun, nofun, nofun, fun _ => rfl⟩
  defaults := ⟨fun _ => rfl, fun _ => rfl, fun _ => rfl⟩

/-- Registers that hold no message meet the invariants, before the first DECODE or after a failed one. -/
theorem State.MessageUnset.resultInv {t : State} (h : t.MessageUnset) (hvalid : t.valid = false → t.status = .ok)
    (hstatus : t.valid = true → t.status ≠ .ok) : t.ResultInv := by
  have hunset := h
  obtain ⟨-, hfc, hflag, hcode, hunk, haddr, hqty, hshape, hbcnt, hnval, hval⟩ := hunset
  exact {
    idle := fun hv => ⟨hvalid hv, h⟩
    failed := fun _ => h
    succeeded := fun hv hs => absurd hs (hstatus hv)
    exception_iff := by simp [hflag, hshape]
    exception_empty := fun _ => ⟨hnval, haddr, hqty, hbcnt⟩
    no_error := fun _ => ⟨hcode, hunk⟩
    unknown_iff := by simp [hflag, hunk]
    bits_count := by simp [hshape]
    bits_zero_one := by simp [hshape]
    beyond_count := fun i _ => hval ▸ Values.zero_getElem i
    fc_bit7 := by rw [hfc]; rfl
    counts := by simp [hshape, hnval]
    defaults := ⟨fun _ => haddr, fun _ => hqty, fun _ => hbcnt⟩ }

theorem State.afterFailure_messageUnset (s : State) (st : Status) : (s.afterFailure st).MessageUnset :=
  ⟨rfl, rfl, rfl, rfl, rfl, rfl, rfl, rfl, rfl, rfl, rfl⟩

/-- Whatever row a frame decodes to, its registers meet the invariants and VALID is set. -/
theorem DecodesTo.resultInv {s t : State} (h : DecodesTo s t) : t.ResultInv ∧ t.valid = true := by
  have hread : [0x01#8, 0x02#8, 0x03#8, 0x04#8] ⊆ recognisedNumbers := by decide
  have hbits : [0x01#8, 0x02#8] ⊆ recognisedNumbers := by decide
  have hregs : [0x03#8, 0x04#8] ⊆ recognisedNumbers := by decide
  have hsingle : [0x05#8, 0x06#8] ⊆ recognisedNumbers := by decide
  have hmultiple : [0x0F#8, 0x10#8] ⊆ recognisedNumbers := by decide
  cases h with
  | failure e => exact ⟨(s.afterFailure_messageUnset _).resultInv nofun fun _ => failureStatus_ne_ok e, rfl⟩
  | exception _ hcode => exact ⟨s.afterException_resultInv _ hcode _, rfl⟩
  | request _ hcode => exact ⟨s.afterAddrQty_resultInv _ (hread hcode) _ _, rfl⟩
  | bits _ _ hcode => exact ⟨s.afterBits_resultInv _ (hbits hcode) _ _, rfl⟩
  | registers _ _ hcode => exact ⟨s.afterRegs_resultInv _ (hregs hcode) _ _, rfl⟩
  | singleWrite _ hcode => exact ⟨s.afterAddrVal_resultInv _ (hsingle hcode) _ _, rfl⟩
  | multipleWrite _ hcode => exact ⟨s.afterAddrQty_resultInv _ (hmultiple hcode) _ _, rfl⟩
  | status => exact ⟨s.afterStatus_resultInv _ (by decide) _, rfl⟩
  | diagnostics => exact ⟨s.afterDiag_resultInv _ (by decide) _ _, rfl⟩

/-- Settles O48: the row of Table R34 that the step ends in meets the invariants, and SLAVE, FC and HASERR are those of
the statements about them (R23, R24, R25). -/
theorem resultInvariantsAfterDecode : Obligations.ResultInvariantsAfterDecode := by
  intro s
  obtain ⟨t, hs, hslave, -⟩ := slaveAddressRegister s
  obtain ⟨t₁, hs₁, -, hfc, -⟩ := functionCodeRegister s
  obtain ⟨t₂, hs₂, hflag, -⟩ := errorFlagAndCodeRegisters s
  obtain rfl : t = t₁ := Host.Outcome.next.inj (hs.symm.trans hs₁)
  obtain rfl : t = t₂ := Host.Outcome.next.inj (hs.symm.trans hs₂)
  obtain ⟨hinv, hvalid⟩ := (decodesTo_of_step hs).resultInv
  exact ⟨t, hs, hinv, hvalid, fun hok => ⟨hslave hok, (hfc hok).1, (hflag hok).trans (exceptionFlag_eq _).symm⟩⟩

/-- Settles O49: the registers meet their invariants after every step, and no step writes the frame. -/
theorem stepKeepsInvariant : Obligations.StepKeepsInvariant := by
  intro s t hinv hs
  obtain ⟨-, hwf, hbound⟩ := hinv
  obtain ⟨hmem, hlen⟩ := exec_mem_len hs
  exact ⟨(decodesTo_of_step hs).resultInv.1, hmem ▸ hwf, by rw [hmem, hlen]; exact hbound⟩

/-! ### The host keeps the invariant, and reset -/

/-- The invariants speak of the registers alone. -/
theorem State.ResultInv.of_frame {s : State} (h : s.ResultInv) (mem : Memory) (len : Nat) :
    ({ s with mem := mem, len := len } : State).ResultInv := { h with }

/-- Storing a run of bytes lists no offset outside it beside those listed before. -/
theorem Memory.mem_writeBytes {m : Memory} {off : Nat} {bs : List Byte} {c : Host.Cell}
    (h : c ∈ Memory.writeBytes m off bs) : c ∈ m ∨ c.1 < off + bs.length := by
  induction bs generalizing m off with
  | nil => exact .inl h
  | cons b bs ih =>
    rw [List.length_cons]
    rcases ih h with h | h
    · rcases Memory.mem_write h with h | ⟨rfl, -⟩
      · exact .inl h
      · exact .inr (by simp only; omega)
    · exact .inr (by omega)

theorem State.present_memInv (s : State) (bytes : List Byte) : (s.present bytes).MemInv := by
  refine ⟨s.wf_present bytes, fun c hc => ?_⟩
  rcases Memory.mem_writeBytes hc with h | h
  · exact absurd h List.not_mem_nil
  · simpa using h

theorem State.overwrite_memInv {s : State} (h : s.MemInv) (off : Nat) (b : Byte) : (s.overwrite off b).MemInv := by
  obtain ⟨hwf, hbound⟩ := h
  refine ⟨State.wf_overwrite hwf off b, fun c hc => ?_⟩
  rw [State.overwrite_len]
  unfold State.overwrite at hc
  split at hc
  · next hoff =>
    rcases Memory.mem_write hc with hc | ⟨rfl, -⟩
    · exact hbound c hc
    · exact hoff
  · exact hbound c hc

theorem State.reset_messageUnset : State.reset.MessageUnset :=
  ⟨rfl, rfl, rfl, rfl, rfl, rfl, rfl, rfl, rfl, rfl, rfl⟩

theorem State.reset_resultInv : State.reset.ResultInv :=
  State.reset_messageUnset.resultInv (fun _ => rfl) nofun

/-- Settles O51: right after reset the registers hold no message and the buffer lists nothing. -/
theorem resetMeetsInvariant : Obligations.ResetMeetsInvariant :=
  ⟨State.reset_resultInv, State.wf_reset, nofun⟩

/-- Settles O50: presenting and overwriting leave the registers, and reset leaves the frame. -/
theorem hostKeepsInvariant : Obligations.HostKeepsInvariant := by
  intro s bytes off b hinv
  obtain ⟨hregs, hmem⟩ := hinv
  refine ⟨⟨hregs.of_frame _ _, s.present_memInv bytes⟩, ⟨?_, State.overwrite_memInv hmem off b⟩,
    ⟨State.reset_resultInv.of_frame s.mem s.len, hmem⟩⟩
  unfold State.overwrite
  split
  · exact hregs.of_frame _ _
  · exact hregs

/-- Settles O52: `resetRegisters` is the reset state with the frame as it was. -/
theorem resetRegisterValues : Obligations.ResetRegisterValues :=
  ⟨fun _ => ⟨rfl, rfl, rfl, State.reset_messageUnset, Values.zero_getElem, rfl, rfl⟩, rfl⟩

end Sys2Proof.Machine

/-! ## What a DECODE does not depend on: registers, earlier frames, trailing and padding bytes -/

namespace Sys2Proof.Machine

/-! ### Registers and earlier frames -/

/-- The end of a DECODE takes the frame from the state before it and nothing else. -/
theorem State.finish_congr {s t : State} (hmem : t.mem = s.mem) (hlen : t.len = s.len)
    (r : Except DecodeError Message) : t.finish r = s.finish r := by
  cases r <;> simp [State.succeed, State.raise, hmem, hlen]

/-- So does the whole step (D3). -/
theorem step_congr {s t : State} (hmem : t.mem = s.mem) (hlen : t.len = s.len) : step t = step s := by
  rw [step_eq_finish, step_eq_finish, State.frame_congr hmem hlen, State.finish_congr hmem hlen]

/-- One result leaves the same registers in any two states. -/
theorem State.finish_sameRegisters (s s' : State) (r : Except DecodeError Message) :
    ∃ t t', s.finish r = .next t ∧ s'.finish r = .next t' ∧ t.SameRegisters t' := by
  cases r with
  | ok m => exact ⟨_, _, s.finish_ok m, s'.finish_ok m, by simp [State.SameRegisters]⟩
  | error e => exact ⟨_, _, s.finish_error e, s'.finish_error e, by simp [State.SameRegisters]⟩

/-- Settles O33: equal frames decode to one result. -/
theorem resultDependsOnFrameAlone : Obligations.ResultDependsOnFrameAlone := by
  intro s s' hframe
  rw [step_eq_finish, step_eq_finish, hframe]
  exact State.finish_sameRegisters s s' _

/-- A second step from the state that a first one left answers that state again. -/
theorem step_of_step {s t : State} (h : step s = .next t) : step t = step s := by
  obtain ⟨hmem, hlen⟩ := exec_mem_len h
  exact step_congr hmem hlen

/-- Settles O34: by induction on the number of repeats. -/
theorem decodingAgainChangesNothing : Obligations.DecodingAgainChangesNothing := by
  intro k
  induction k with
  | zero =>
    intro s
    obtain ⟨t, hs⟩ := step_completes s
    exact (run_succ_of_next core hs 0).trans hs.symm
  | succ k ih =>
    intro s
    obtain ⟨t, hs⟩ := step_completes s
    calc core.run (k + 2) s = core.run (k + 1) t := run_succ_of_next core hs (k + 1)
      _ = core.step t := ih t
      _ = core.step s := step_of_step hs

theorem decodeFrames_cons {f : List Byte} {s t : State} (h : step (s.present f) = .next t) (fs : List (List Byte)) :
    decodeFrames (f :: fs) s = decodeFrames fs t := by
  rw [decodeFrames, h]

/-- Settles O35: by induction on the frames before the last, whose DECODE finds that frame whatever state they leave. -/
theorem frameSequenceIsItsLastFrame : Obligations.FrameSequenceIsItsLastFrame := by
  intro frames f
  induction frames with
  | nil =>
    intro s
    obtain ⟨t, hs⟩ := step_completes (s.present f)
    calc decodeFrames [f] s = .next t := decodeFrames_cons hs []
      _ = step (s.present f) := hs.symm
      _ = step (State.reset.present f) := step_congr rfl rfl
  | cons g frames ih =>
    intro s
    obtain ⟨t, hs⟩ := step_completes (s.present g)
    exact (decodeFrames_cons hs (frames ++ [f])).trans (ih t)

/-! ### Trailing bytes (30_encoding R89) -/

theorem State.byte_present (s : State) (bytes : List Byte) (off : Nat) :
    (s.present bytes).byte off = bytes.getD off 0x00#8 := by
  rw [State.byte, State.present_mem, Memory.read_writeBytes (by decide), if_pos (Nat.zero_le off)]
  rfl

/-- Two states that differ in the frame alone have the same registers. -/
theorem State.sameRegisters_of_frame (t : State) (mem : Memory) (len : Nat) :
    ({ t with mem := mem, len := len } : State).SameRegisters t := by
  simp [State.SameRegisters]

theorem State.afterBits_congr (s : State) (slave fc : Byte) {q : Byte} {f g : Nat → Byte}
    (h : bitsVal f q.toNat = bitsVal g q.toNat) : s.afterBits slave fc q f = s.afterBits slave fc q g := by
  rw [State.afterBits, h, State.afterBits]

theorem State.afterRegs_congr (s : State) (slave fc : Byte) {bc : Byte} {f g : Nat → Byte}
    (h : regsVal f (bc.toNat / 2) = regsVal g (bc.toNat / 2)) :
    s.afterRegs slave fc bc f = s.afterRegs slave fc bc g := by
  rw [State.afterRegs, h, State.afterRegs]

/-- A frame that decodes successfully decodes to the same registers in every longer frame that begins with its bytes, as
long as neither is a read code of six bytes: every row reads bytes of the shorter frame alone. -/
theorem DecodesTo.extend {s s' t : State} (h : DecodesTo s t) (hok : t.status = .ok) (hlonger : s.len ≤ s'.len)
    (hbyte : ∀ off < s.len, s'.byte off = s.byte off)
    (hsix : s.byte 1 ∈ [0x01#8, 0x02#8, 0x03#8, 0x04#8] → s.len ≠ 6 ∧ s'.len ≠ 6) :
    ∃ t', step s' = .next t' ∧ t'.SameRegisters t := by
  have hsame := t.sameRegisters_of_frame s'.mem s'.len
  have hthree (h : 3 ≤ s.len) : s'.byte 0 = s.byte 0 ∧ s'.byte 1 = s.byte 1 ∧ s'.byte 2 = s.byte 2 :=
    ⟨hbyte 0 (by omega), hbyte 1 (by omega), hbyte 2 (by omega)⟩
  have hfields (h : 6 ≤ s.len) :
      s'.byte 0 = s.byte 0 ∧ s'.byte 1 = s.byte 1 ∧ pairOf (s'.byte 2) (s'.byte 3) = pairOf (s.byte 2) (s.byte 3) ∧
        pairOf (s'.byte 4) (s'.byte 5) = pairOf (s.byte 4) (s.byte 5) := by
    rw [hbyte 0 (by omega), hbyte 1 (by omega), hbyte 2 (by omega), hbyte 3 (by omega), hbyte 4 (by omega),
      hbyte 5 (by omega)]
    exact ⟨rfl, rfl, rfl, rfl⟩
  cases h with
  | failure e => exact absurd hok (failureStatus_ne_ok e)
  | exception hlen hcode hb1 =>
    obtain ⟨h0, h1, h2⟩ := hthree hlen
    have hs' := exceptionResponseResult s' _ hcode (hlen.trans hlonger) (h1.trans hb1)
    rw [h0, h2] at hs'
    exact ⟨_, hs', hsame⟩
  | request hlen hcode => exact absurd hlen (hsix hcode).1
  | bits hlen hne hcode hfits =>
    obtain ⟨h0, h1, h2⟩ := hthree hlen
    have hne' := (hsix (List.mem_append_left [0x03#8, 0x04#8] hcode)).2
    have hs' := (bitResponseResult s' _ hcode (hlen.trans hlonger) hne' h1).1 (by rw [h2]; omega)
    have hval : bitsVal s'.byte (s.byte 2).toNat = bitsVal s.byte (s.byte 2).toNat :=
      bitsVal_congr fun i hi => by rw [hbyte (3 + i / 8) (by omega)]
    rw [h0, h2, State.afterBits_congr s' _ _ hval] at hs'
    exact ⟨_, hs', hsame⟩
  | registers hlen hne hcode hfits =>
    obtain ⟨h0, h1, h2⟩ := hthree hlen
    have hne' := (hsix (List.mem_append_right [0x01#8, 0x02#8] hcode)).2
    have hs' := (registerResponseResult s' _ hcode (hlen.trans hlonger) hne' h1).1 (by rw [h2]; omega)
    have hval : regsVal s'.byte ((s.byte 2).toNat / 2) = regsVal s.byte ((s.byte 2).toNat / 2) :=
      regsVal_congr fun off hoff _ => hbyte off (by omega)
    rw [h0, h2, State.afterRegs_congr s' _ _ hval] at hs'
    exact ⟨_, hs', hsame⟩
  | singleWrite hlen hcode =>
    obtain ⟨h0, h1, haddr, hvalue⟩ := hfields hlen
    obtain ⟨hsingle, -, -⟩ := writeFrameResult s' _ h1
    have hs' := hsingle hcode (hlen.trans hlonger)
    rw [h0, haddr, hvalue] at hs'
    exact ⟨_, hs', hsame⟩
  | multipleWrite hlen hcode =>
    obtain ⟨h0, h1, haddr, hqty⟩ := hfields hlen
    obtain ⟨-, hmultiple, -⟩ := writeFrameResult s' _ h1
    have hs' := hmultiple hcode (hlen.trans hlonger)
    rw [h0, haddr, hqty] at hs'
    exact ⟨_, hs', hsame⟩
  | status hlen hcode =>
    obtain ⟨h0, h1, h2⟩ := hthree hlen
    obtain ⟨hres, -, -⟩ := serialLineResult s'
    have hs' := hres (h1.trans hcode) (hlen.trans hlonger)
    rw [h0, h2] at hs'
    exact ⟨_, hs', hsame⟩
  | diagnostics hlen hcode =>
    obtain ⟨h0, h1, hsub, hdat⟩ := hfields hlen
    obtain ⟨-, hdiag, -⟩ := serialLineResult s'
    have hs' := hdiag (h1.trans hcode) (hlen.trans hlonger)
    rw [h0, hsub, hdat] at hs'
    exact ⟨_, hs', hsame⟩

/-- Settles O46: presenting the longer frame presents the bytes of the shorter one at the same offsets. -/
theorem trailingBytesIgnored : Obligations.TrailingBytesIgnored := by
  intro s t frame extra hs hok hsix
  refine (decodesTo_of_step hs).extend hok (by simp) (fun off hoff => ?_) ?_
  · rw [State.byte_present, State.byte_present, List.getD_append _ _ _ _ hoff]
  · simpa only [State.byte_present, State.present_len] using hsix

/-! ### Padding bits (42_read_bits) -/

/-- Settles O47: both frames are SHORT, both lack a byte of the declared bits, or both end in the row BITS, whose VAL
looks at the declared bits only. -/
theorem paddingBitsIgnored : Obligations.PaddingBitsIgnored := by
  intro s s' hcode hne hlen hb0 hb1 hb2 hbits
  by_cases hlong : 3 ≤ s.len
  · obtain ⟨hok, hfail⟩ := bitResponseResult s _ hcode hlong hne rfl
    obtain ⟨hok', hfail'⟩ := bitResponseResult s' _ hcode (hlen ▸ hlong) (hlen ▸ hne) hb1
    rw [hb2, hlen] at hok' hfail'
    rw [hb0, State.afterBits_congr s' _ _ (bitsVal_congr hbits)] at hok'
    by_cases hfits : ((s.byte 2).toNat + 7) / 8 ≤ s.len - 3
    · exact ⟨_, _, hok hfits, hok' hfits, State.sameRegisters_of_frame (s.afterBits _ _ _ _) s'.mem s'.len⟩
    · have hcut := Nat.lt_of_not_le hfits
      exact ⟨_, _, hfail hcut, hfail' hcut, State.sameRegisters_of_frame (s.afterFailure _) s'.mem s'.len⟩
  · have hshort := Nat.lt_of_not_le hlong
    exact ⟨_, _, step_short hshort, step_short (hlen ▸ hshort),
      State.sameRegisters_of_frame (s.raise .tooShort) s'.mem s'.len⟩

end Sys2Proof.Machine
